-- ==== Sys2Proof/Word.lean ====
section
/-! DEFINITION. The word types, all of the widths 00_scope.md R6 (P1, P13) fixes. Arithmetic on them is BitVec arithmetic: modulo
2^32 for `Word` (R8). -/

namespace Sys2Proof

/-- One byte of memory, the port's smallest unit (20_memory.md R60). -/
abbrev Byte := BitVec 8

/-- A 32-bit quantity: instruction word, GPR, CR, XER, LR, CTR, MSR, SRR0, SRR1, FPSCR, SPR cell, PC, address (R6 P1). -/
abbrev Word := BitVec 32

/-- A 64-bit quantity: FPR, time base, port value (10_state.md R34, R35). -/
abbrev DWord := BitVec 64

/-- The number of a general register, a five-bit field (30_encoding.md R92). -/
abbrev GprNum := BitVec 5

/-- The number of a floating-point register, a five-bit field (R92). -/
abbrev FprNum := BitVec 5

/-- The number of a CR bit or an FPSCR bit, MSB-0 (R92; 10_state.md R24). -/
abbrev CrBit := BitVec 5

/-- The number of a four-bit CR or FPSCR field (R92; 10_state.md R24). -/
abbrev CrField := BitVec 3

/-- A special-purpose register number, un-swapped (30_encoding.md R95). -/
abbrev SprNum := BitVec 10

end Sys2Proof
end

