-- ==== Sys2Proof/Syntax.lean ====
section
/-! DEFINITION. The instructions: one constructor for each of the 181 rows of spec/opcode_table.json, in the table's order.

The operands of a constructor are the fields of its word, most significant first (30_encoding.md R92, R93), so a constructor
and its word determine each other. A field named z<n> is a run of bits that the row's format marks reserved, starting at bit
<n> (MSB-0); no rule reads it (R103), and exec's arms drop it. It is kept because the invalid-instruction path records the
raw word (R137), which Decode.encode rebuilds. SPR and TBR numbers are held already un-swapped (R95). In the A form the
addend or divisor frb stands before the multiplier frc, as in the word (R340). -/

namespace Sys2Proof

/-- The instruction set (R97 to R101). -/
inductive Instr where
  /-- `twi`: R529, format D. Recognised but unimplemented (R105). -/
  | twi (tcond : BitVec 5) (ra : GprNum) (simm : BitVec 16)
  /-- `mulli`: R169, format D. -/
  | mulli (rd : GprNum) (ra : GprNum) (simm : BitVec 16)
  /-- `subfic`: R168, format D. -/
  | subfic (rd : GprNum) (ra : GprNum) (simm : BitVec 16)
  /-- `cmpli`: R220, format D. -/
  | cmpli (crfD : CrField) (z9 : BitVec 1) (l : Bool) (ra : GprNum) (uimm : BitVec 16)
  /-- `cmpi`: R218, format D. -/
  | cmpi (crfD : CrField) (z9 : BitVec 1) (l : Bool) (ra : GprNum) (simm : BitVec 16)
  /-- `addic`: R166, format D. -/
  | addic (rd : GprNum) (ra : GprNum) (simm : BitVec 16)
  /-- `addic.`: R167, format D. -/
  | addicDot (rd : GprNum) (ra : GprNum) (simm : BitVec 16)
  /-- `addi`: R164, format D. -/
  | addi (rd : GprNum) (ra : GprNum) (simm : BitVec 16)
  /-- `addis`: R165, format D. -/
  | addis (rd : GprNum) (ra : GprNum) (simm : BitVec 16)
  /-- `bc`: R452, format B. -/
  | bc (bo : BitVec 5) (bi : CrBit) (bd : BitVec 14) (aa : Bool) (lk : Bool)
  /-- `sc`: R491, format SC. -/
  | sc (z6 : BitVec 26)
  /-- `b`: R451, format I. -/
  | b (li : BitVec 24) (aa : Bool) (lk : Bool)
  /-- `mcrf`: R464, format XL. -/
  | mcrf (crfD : CrField) (z9 : BitVec 2) (crfS : CrField) (z14 : BitVec 2) (z16 : BitVec 5) (z31 : BitVec 1)
  /-- `bclr`: R453, format XL. -/
  | bclr (bo : BitVec 5) (bi : CrBit) (z16 : BitVec 5) (lk : Bool)
  /-- `crnor`: R460, format XL. -/
  | crnor (crbD : CrBit) (crbA : CrBit) (crbB : CrBit) (z31 : BitVec 1)
  /-- `rfi`: R492, format XL. -/
  | rfi (z6 : BitVec 5) (z11 : BitVec 5) (z16 : BitVec 5) (z31 : BitVec 1)
  /-- `crandc`: R462, format XL. -/
  | crandc (crbD : CrBit) (crbA : CrBit) (crbB : CrBit) (z31 : BitVec 1)
  /-- `isync`: R494, format XL. -/
  | isync (z6 : BitVec 5) (z11 : BitVec 5) (z16 : BitVec 5) (z31 : BitVec 1)
  /-- `crxor`: R458, format XL. -/
  | crxor (crbD : CrBit) (crbA : CrBit) (crbB : CrBit) (z31 : BitVec 1)
  /-- `crnand`: R459, format XL. -/
  | crnand (crbD : CrBit) (crbA : CrBit) (crbB : CrBit) (z31 : BitVec 1)
  /-- `crand`: R456, format XL. -/
  | crand (crbD : CrBit) (crbA : CrBit) (crbB : CrBit) (z31 : BitVec 1)
  /-- `creqv`: R461, format XL. -/
  | creqv (crbD : CrBit) (crbA : CrBit) (crbB : CrBit) (z31 : BitVec 1)
  /-- `crorc`: R463, format XL. -/
  | crorc (crbD : CrBit) (crbA : CrBit) (crbB : CrBit) (z31 : BitVec 1)
  /-- `cror`: R457, format XL. -/
  | cror (crbD : CrBit) (crbA : CrBit) (crbB : CrBit) (z31 : BitVec 1)
  /-- `bcctr`: R454, format XL. -/
  | bcctr (bo : BitVec 5) (bi : CrBit) (z16 : BitVec 5) (lk : Bool)
  /-- `rlwimi`: R224, format M. -/
  | rlwimi (rs : GprNum) (ra : GprNum) (sh : BitVec 5) (mb : BitVec 5) (me : BitVec 5) (rc : Bool)
  /-- `rlwinm`: R223, format M. -/
  | rlwinm (rs : GprNum) (ra : GprNum) (sh : BitVec 5) (mb : BitVec 5) (me : BitVec 5) (rc : Bool)
  /-- `rlwnm`: R225, format M. -/
  | rlwnm (rs : GprNum) (ra : GprNum) (rb : GprNum) (mb : BitVec 5) (me : BitVec 5) (rc : Bool)
  /-- `ori`: R203, format D. -/
  | ori (rs : GprNum) (ra : GprNum) (uimm : BitVec 16)
  /-- `oris`: R204, format D. -/
  | oris (rs : GprNum) (ra : GprNum) (uimm : BitVec 16)
  /-- `xori`: R205, format D. -/
  | xori (rs : GprNum) (ra : GprNum) (uimm : BitVec 16)
  /-- `xoris`: R206, format D. -/
  | xoris (rs : GprNum) (ra : GprNum) (uimm : BitVec 16)
  /-- `andi.`: R201, format D. -/
  | andiDot (rs : GprNum) (ra : GprNum) (uimm : BitVec 16)
  /-- `andis.`: R202, format D. -/
  | andisDot (rs : GprNum) (ra : GprNum) (uimm : BitVec 16)
  /-- `cmp`: R219, format X. -/
  | cmp (crfD : CrField) (z9 : BitVec 1) (l : Bool) (ra : GprNum) (rb : GprNum) (z31 : BitVec 1)
  /-- `tw`: R528, format X. Recognised but unimplemented (R105). -/
  | tw (tcond : BitVec 5) (ra : GprNum) (rb : GprNum) (z31 : BitVec 1)
  /-- `subfc`: R176, format XO. -/
  | subfc (rd : GprNum) (ra : GprNum) (rb : GprNum) (oe : Bool) (rc : Bool)
  /-- `addc`: R171, format XO. -/
  | addc (rd : GprNum) (ra : GprNum) (rb : GprNum) (oe : Bool) (rc : Bool)
  /-- `mulhwu`: R183, format XO. -/
  | mulhwu (rd : GprNum) (ra : GprNum) (rb : GprNum) (rc : Bool)
  /-- `mfcr`: R465, format X. -/
  | mfcr (rd : GprNum) (z11 : BitVec 5) (z16 : BitVec 5) (z31 : BitVec 1)
  /-- `lwarx`: R520, format X. Recognised but unimplemented (R105). -/
  | lwarx (rd : GprNum) (ra : GprNum) (rb : GprNum) (z31 : BitVec 1)
  /-- `lwzx`: R267, format X. -/
  | lwzx (rd : GprNum) (ra : GprNum) (rb : GprNum) (z31 : BitVec 1)
  /-- `slw`: R226, format X. -/
  | slw (rs : GprNum) (ra : GprNum) (rb : GprNum) (rc : Bool)
  /-- `cntlzw`: R217, format X. -/
  | cntlzw (rs : GprNum) (ra : GprNum) (z16 : BitVec 5) (rc : Bool)
  /-- `and`: R207, format X. -/
  | and (rs : GprNum) (ra : GprNum) (rb : GprNum) (rc : Bool)
  /-- `cmpl`: R221, format X. -/
  | cmpl (crfD : CrField) (z9 : BitVec 1) (l : Bool) (ra : GprNum) (rb : GprNum) (z31 : BitVec 1)
  /-- `subf`: R175, format XO. -/
  | subf (rd : GprNum) (ra : GprNum) (rb : GprNum) (oe : Bool) (rc : Bool)
  /-- `dcbst`: R498, format X. -/
  | dcbst (z6 : BitVec 5) (ra : GprNum) (rb : GprNum) (z31 : BitVec 1)
  /-- `lwzux`: R268, format X. -/
  | lwzux (rd : GprNum) (ra : GprNum) (rb : GprNum) (z31 : BitVec 1)
  /-- `andc`: R212, format X. -/
  | andc (rs : GprNum) (ra : GprNum) (rb : GprNum) (rc : Bool)
  /-- `mulhw`: R182, format XO. -/
  | mulhw (rd : GprNum) (ra : GprNum) (rb : GprNum) (rc : Bool)
  /-- `mfmsr`: R503, format X. -/
  | mfmsr (rd : GprNum) (z11 : BitVec 5) (z16 : BitVec 5) (z31 : BitVec 1)
  /-- `dcbf`: R499, format X. -/
  | dcbf (z6 : BitVec 5) (ra : GprNum) (rb : GprNum) (z31 : BitVec 1)
  /-- `lbzx`: R255, format X. -/
  | lbzx (rd : GprNum) (ra : GprNum) (rb : GprNum) (z31 : BitVec 1)
  /-- `neg`: R180, format XO. -/
  | neg (rd : GprNum) (ra : GprNum) (z16 : BitVec 5) (oe : Bool) (rc : Bool)
  /-- `lbzux`: R256, format X. -/
  | lbzux (rd : GprNum) (ra : GprNum) (rb : GprNum) (z31 : BitVec 1)
  /-- `nor`: R211, format X. -/
  | nor (rs : GprNum) (ra : GprNum) (rb : GprNum) (rc : Bool)
  /-- `subfe`: R177, format XO. -/
  | subfe (rd : GprNum) (ra : GprNum) (rb : GprNum) (oe : Bool) (rc : Bool)
  /-- `adde`: R172, format XO. -/
  | adde (rd : GprNum) (ra : GprNum) (rb : GprNum) (oe : Bool) (rc : Bool)
  /-- `mtcrf`: R466, format XFX. -/
  | mtcrf (rs : GprNum) (z11 : BitVec 1) (crm : BitVec 8) (z20 : BitVec 1) (z31 : BitVec 1)
  /-- `mtmsr`: R504, format X. -/
  | mtmsr (rs : GprNum) (z11 : BitVec 5) (z16 : BitVec 5) (z31 : BitVec 1)
  /-- `stwcx.`: R521, format X. Recognised but unimplemented (R105). -/
  | stwcxDot (rs : GprNum) (ra : GprNum) (rb : GprNum) (z31 : BitVec 1)
  /-- `stwx`: R279, format X. -/
  | stwx (rs : GprNum) (ra : GprNum) (rb : GprNum) (z31 : BitVec 1)
  /-- `stwux`: R280, format X. -/
  | stwux (rs : GprNum) (ra : GprNum) (rb : GprNum) (z31 : BitVec 1)
  /-- `subfze`: R179, format XO. -/
  | subfze (rd : GprNum) (ra : GprNum) (z16 : BitVec 5) (oe : Bool) (rc : Bool)
  /-- `addze`: R174, format XO. -/
  | addze (rd : GprNum) (ra : GprNum) (z16 : BitVec 5) (oe : Bool) (rc : Bool)
  /-- `mtsr`: R524, format X. Recognised but unimplemented (R105). -/
  | mtsr (rs : GprNum) (z11 : BitVec 1) (sr : BitVec 4) (z16 : BitVec 5) (z31 : BitVec 1)
  /-- `stbx`: R271, format X. -/
  | stbx (rs : GprNum) (ra : GprNum) (rb : GprNum) (z31 : BitVec 1)
  /-- `subfme`: R178, format XO. -/
  | subfme (rd : GprNum) (ra : GprNum) (z16 : BitVec 5) (oe : Bool) (rc : Bool)
  /-- `addme`: R173, format XO. -/
  | addme (rd : GprNum) (ra : GprNum) (z16 : BitVec 5) (oe : Bool) (rc : Bool)
  /-- `mullw`: R181, format XO. -/
  | mullw (rd : GprNum) (ra : GprNum) (rb : GprNum) (oe : Bool) (rc : Bool)
  /-- `mtsrin`: R525, format X. Recognised but unimplemented (R105). -/
  | mtsrin (rs : GprNum) (z11 : BitVec 5) (rb : GprNum) (z31 : BitVec 1)
  /-- `dcbtst`: R497, format X. -/
  | dcbtst (z6 : BitVec 5) (ra : GprNum) (rb : GprNum) (z31 : BitVec 1)
  /-- `stbux`: R272, format X. -/
  | stbux (rs : GprNum) (ra : GprNum) (rb : GprNum) (z31 : BitVec 1)
  /-- `add`: R170, format XO. -/
  | add (rd : GprNum) (ra : GprNum) (rb : GprNum) (oe : Bool) (rc : Bool)
  /-- `dcbt`: R496, format X. -/
  | dcbt (z6 : BitVec 5) (ra : GprNum) (rb : GprNum) (z31 : BitVec 1)
  /-- `lhzx`: R259, format X. -/
  | lhzx (rd : GprNum) (ra : GprNum) (rb : GprNum) (z31 : BitVec 1)
  /-- `eqv`: R214, format X. -/
  | eqv (rs : GprNum) (ra : GprNum) (rb : GprNum) (rc : Bool)
  /-- `tlbie`: R526, format X. Recognised but unimplemented (R105). -/
  | tlbie (z6 : BitVec 5) (z11 : BitVec 5) (rb : GprNum) (z31 : BitVec 1)
  /-- `lhzux`: R260, format X. -/
  | lhzux (rd : GprNum) (ra : GprNum) (rb : GprNum) (z31 : BitVec 1)
  /-- `xor`: R209, format X. -/
  | xor (rs : GprNum) (ra : GprNum) (rb : GprNum) (rc : Bool)
  /-- `mfspr`: R321, format XFX. -/
  | mfspr (rd : GprNum) (spr : SprNum) (z31 : BitVec 1)
  /-- `lhax`: R263, format X. -/
  | lhax (rd : GprNum) (ra : GprNum) (rb : GprNum) (z31 : BitVec 1)
  /-- `mftb`: R323, format XFX. -/
  | mftb (rd : GprNum) (tbr : SprNum) (z31 : BitVec 1)
  /-- `lhaux`: R264, format X. -/
  | lhaux (rd : GprNum) (ra : GprNum) (rb : GprNum) (z31 : BitVec 1)
  /-- `sthx`: R275, format X. -/
  | sthx (rs : GprNum) (ra : GprNum) (rb : GprNum) (z31 : BitVec 1)
  /-- `orc`: R213, format X. -/
  | orc (rs : GprNum) (ra : GprNum) (rb : GprNum) (rc : Bool)
  /-- `sthux`: R276, format X. -/
  | sthux (rs : GprNum) (ra : GprNum) (rb : GprNum) (z31 : BitVec 1)
  /-- `or`: R208, format X. -/
  | or (rs : GprNum) (ra : GprNum) (rb : GprNum) (rc : Bool)
  /-- `divwu`: R185, format XO. -/
  | divwu (rd : GprNum) (ra : GprNum) (rb : GprNum) (oe : Bool) (rc : Bool)
  /-- `mtspr`: R322, format XFX. -/
  | mtspr (rs : GprNum) (spr : SprNum) (z31 : BitVec 1)
  /-- `dcbi`: R501, format X. -/
  | dcbi (z6 : BitVec 5) (ra : GprNum) (rb : GprNum) (z31 : BitVec 1)
  /-- `nand`: R210, format X. -/
  | nand (rs : GprNum) (ra : GprNum) (rb : GprNum) (rc : Bool)
  /-- `divw`: R184, format XO. -/
  | divw (rd : GprNum) (ra : GprNum) (rb : GprNum) (oe : Bool) (rc : Bool)
  /-- `mcrxr`: R324, format X. -/
  | mcrxr (crfD : CrField) (z9 : BitVec 2) (z11 : BitVec 5) (z16 : BitVec 5) (z31 : BitVec 1)
  /-- `lswx`: R297, format X. -/
  | lswx (rd : GprNum) (ra : GprNum) (rb : GprNum) (z31 : BitVec 1)
  /-- `lwbrx`: R291, format X. -/
  | lwbrx (rd : GprNum) (ra : GprNum) (rb : GprNum) (z31 : BitVec 1)
  /-- `lfsx`: R425, format X. -/
  | lfsx (frd : FprNum) (ra : GprNum) (rb : GprNum) (z31 : BitVec 1)
  /-- `srw`: R227, format X. -/
  | srw (rs : GprNum) (ra : GprNum) (rb : GprNum) (rc : Bool)
  /-- `tlbsync`: R527, format X. Recognised but unimplemented (R105). -/
  | tlbsync (z6 : BitVec 5) (z11 : BitVec 5) (z16 : BitVec 5) (z31 : BitVec 1)
  /-- `lfsux`: R426, format X. -/
  | lfsux (frd : FprNum) (ra : GprNum) (rb : GprNum) (z31 : BitVec 1)
  /-- `mfsr`: R522, format X. Recognised but unimplemented (R105). -/
  | mfsr (rd : GprNum) (z11 : BitVec 1) (sr : BitVec 4) (z16 : BitVec 5) (z31 : BitVec 1)
  /-- `lswi`: R296, format X. -/
  | lswi (rd : GprNum) (ra : GprNum) (nb : BitVec 5) (z31 : BitVec 1)
  /-- `sync`: R493, format X. -/
  | sync (z6 : BitVec 5) (z11 : BitVec 5) (z16 : BitVec 5) (z31 : BitVec 1)
  /-- `lfdx`: R429, format X. -/
  | lfdx (frd : FprNum) (ra : GprNum) (rb : GprNum) (z31 : BitVec 1)
  /-- `lfdux`: R430, format X. -/
  | lfdux (frd : FprNum) (ra : GprNum) (rb : GprNum) (z31 : BitVec 1)
  /-- `mfsrin`: R523, format X. Recognised but unimplemented (R105). -/
  | mfsrin (rd : GprNum) (z11 : BitVec 5) (rb : GprNum) (z31 : BitVec 1)
  /-- `stswx`: R299, format X. -/
  | stswx (rs : GprNum) (ra : GprNum) (rb : GprNum) (z31 : BitVec 1)
  /-- `stwbrx`: R293, format X. -/
  | stwbrx (rs : GprNum) (ra : GprNum) (rb : GprNum) (z31 : BitVec 1)
  /-- `stfsx`: R433, format X. -/
  | stfsx (frs : FprNum) (ra : GprNum) (rb : GprNum) (z31 : BitVec 1)
  /-- `stfsux`: R434, format X. -/
  | stfsux (frs : FprNum) (ra : GprNum) (rb : GprNum) (z31 : BitVec 1)
  /-- `stswi`: R298, format X. -/
  | stswi (rs : GprNum) (ra : GprNum) (nb : BitVec 5) (z31 : BitVec 1)
  /-- `stfdx`: R437, format X. -/
  | stfdx (frs : FprNum) (ra : GprNum) (rb : GprNum) (z31 : BitVec 1)
  /-- `stfdux`: R438, format X. -/
  | stfdux (frs : FprNum) (ra : GprNum) (rb : GprNum) (z31 : BitVec 1)
  /-- `lhbrx`: R290, format X. -/
  | lhbrx (rd : GprNum) (ra : GprNum) (rb : GprNum) (z31 : BitVec 1)
  /-- `sraw`: R228, format X. -/
  | sraw (rs : GprNum) (ra : GprNum) (rb : GprNum) (rc : Bool)
  /-- `srawi`: R229, format X. -/
  | srawi (rs : GprNum) (ra : GprNum) (sh : BitVec 5) (rc : Bool)
  /-- `eieio`: R495, format X. -/
  | eieio (z6 : BitVec 5) (z11 : BitVec 5) (z16 : BitVec 5) (z31 : BitVec 1)
  /-- `sthbrx`: R292, format X. -/
  | sthbrx (rs : GprNum) (ra : GprNum) (rb : GprNum) (z31 : BitVec 1)
  /-- `extsh`: R216, format X. -/
  | extsh (rs : GprNum) (ra : GprNum) (z16 : BitVec 5) (rc : Bool)
  /-- `extsb`: R215, format X. -/
  | extsb (rs : GprNum) (ra : GprNum) (z16 : BitVec 5) (rc : Bool)
  /-- `icbi`: R502, format X. -/
  | icbi (z6 : BitVec 5) (ra : GprNum) (rb : GprNum) (z31 : BitVec 1)
  /-- `stfiwx`: R439, format X. -/
  | stfiwx (frs : FprNum) (ra : GprNum) (rb : GprNum) (z31 : BitVec 1)
  /-- `dcbz`: R500, format X. -/
  | dcbz (z6 : BitVec 5) (ra : GprNum) (rb : GprNum) (z31 : BitVec 1)
  /-- `lwz`: R265, format D. -/
  | lwz (rd : GprNum) (ra : GprNum) (d : BitVec 16)
  /-- `lwzu`: R266, format D. -/
  | lwzu (rd : GprNum) (ra : GprNum) (d : BitVec 16)
  /-- `lbz`: R253, format D. -/
  | lbz (rd : GprNum) (ra : GprNum) (d : BitVec 16)
  /-- `lbzu`: R254, format D. -/
  | lbzu (rd : GprNum) (ra : GprNum) (d : BitVec 16)
  /-- `stw`: R277, format D. -/
  | stw (rs : GprNum) (ra : GprNum) (d : BitVec 16)
  /-- `stwu`: R278, format D. -/
  | stwu (rs : GprNum) (ra : GprNum) (d : BitVec 16)
  /-- `stb`: R269, format D. -/
  | stb (rs : GprNum) (ra : GprNum) (d : BitVec 16)
  /-- `stbu`: R270, format D. -/
  | stbu (rs : GprNum) (ra : GprNum) (d : BitVec 16)
  /-- `lhz`: R257, format D. -/
  | lhz (rd : GprNum) (ra : GprNum) (d : BitVec 16)
  /-- `lhzu`: R258, format D. -/
  | lhzu (rd : GprNum) (ra : GprNum) (d : BitVec 16)
  /-- `lha`: R261, format D. -/
  | lha (rd : GprNum) (ra : GprNum) (d : BitVec 16)
  /-- `lhau`: R262, format D. -/
  | lhau (rd : GprNum) (ra : GprNum) (d : BitVec 16)
  /-- `sth`: R273, format D. -/
  | sth (rs : GprNum) (ra : GprNum) (d : BitVec 16)
  /-- `sthu`: R274, format D. -/
  | sthu (rs : GprNum) (ra : GprNum) (d : BitVec 16)
  /-- `lmw`: R294, format D. -/
  | lmw (rd : GprNum) (ra : GprNum) (d : BitVec 16)
  /-- `stmw`: R295, format D. -/
  | stmw (rs : GprNum) (ra : GprNum) (d : BitVec 16)
  /-- `lfs`: R423, format D. -/
  | lfs (frd : FprNum) (ra : GprNum) (d : BitVec 16)
  /-- `lfsu`: R424, format D. -/
  | lfsu (frd : FprNum) (ra : GprNum) (d : BitVec 16)
  /-- `lfd`: R427, format D. -/
  | lfd (frd : FprNum) (ra : GprNum) (d : BitVec 16)
  /-- `lfdu`: R428, format D. -/
  | lfdu (frd : FprNum) (ra : GprNum) (d : BitVec 16)
  /-- `stfs`: R431, format D. -/
  | stfs (frs : FprNum) (ra : GprNum) (d : BitVec 16)
  /-- `stfsu`: R432, format D. -/
  | stfsu (frs : FprNum) (ra : GprNum) (d : BitVec 16)
  /-- `stfd`: R435, format D. -/
  | stfd (frs : FprNum) (ra : GprNum) (d : BitVec 16)
  /-- `stfdu`: R436, format D. -/
  | stfdu (frs : FprNum) (ra : GprNum) (d : BitVec 16)
  /-- `fdivs`: R360, format A. -/
  | fdivs (frd : FprNum) (fra : FprNum) (frb : FprNum) (z21 : BitVec 5) (rc : Bool)
  /-- `fsubs`: R356, format A. -/
  | fsubs (frd : FprNum) (fra : FprNum) (frb : FprNum) (z21 : BitVec 5) (rc : Bool)
  /-- `fadds`: R354, format A. -/
  | fadds (frd : FprNum) (fra : FprNum) (frb : FprNum) (z21 : BitVec 5) (rc : Bool)
  /-- `fres`: R369, format A. -/
  | fres (frd : FprNum) (z11 : BitVec 5) (frb : FprNum) (z21 : BitVec 5) (rc : Bool)
  /-- `fmuls`: R358, format A. -/
  | fmuls (frd : FprNum) (fra : FprNum) (z16 : BitVec 5) (frc : FprNum) (rc : Bool)
  /-- `fmsubs`: R364, format A. -/
  | fmsubs (frd : FprNum) (fra : FprNum) (frb : FprNum) (frc : FprNum) (rc : Bool)
  /-- `fmadds`: R362, format A. -/
  | fmadds (frd : FprNum) (fra : FprNum) (frb : FprNum) (frc : FprNum) (rc : Bool)
  /-- `fnmsubs`: R368, format A. -/
  | fnmsubs (frd : FprNum) (fra : FprNum) (frb : FprNum) (frc : FprNum) (rc : Bool)
  /-- `fnmadds`: R366, format A. -/
  | fnmadds (frd : FprNum) (fra : FprNum) (frb : FprNum) (frc : FprNum) (rc : Bool)
  /-- `fdiv`: R359, format A. -/
  | fdiv (frd : FprNum) (fra : FprNum) (frb : FprNum) (z21 : BitVec 5) (rc : Bool)
  /-- `fsub`: R355, format A. -/
  | fsub (frd : FprNum) (fra : FprNum) (frb : FprNum) (z21 : BitVec 5) (rc : Bool)
  /-- `fadd`: R353, format A. -/
  | fadd (frd : FprNum) (fra : FprNum) (frb : FprNum) (z21 : BitVec 5) (rc : Bool)
  /-- `fmul`: R357, format A. -/
  | fmul (frd : FprNum) (fra : FprNum) (z16 : BitVec 5) (frc : FprNum) (rc : Bool)
  /-- `frsqrte`: R370, format A. -/
  | frsqrte (frd : FprNum) (z11 : BitVec 5) (frb : FprNum) (z21 : BitVec 5) (rc : Bool)
  /-- `fmsub`: R363, format A. -/
  | fmsub (frd : FprNum) (fra : FprNum) (frb : FprNum) (frc : FprNum) (rc : Bool)
  /-- `fmadd`: R361, format A. -/
  | fmadd (frd : FprNum) (fra : FprNum) (frb : FprNum) (frc : FprNum) (rc : Bool)
  /-- `fnmsub`: R367, format A. -/
  | fnmsub (frd : FprNum) (fra : FprNum) (frb : FprNum) (frc : FprNum) (rc : Bool)
  /-- `fnmadd`: R365, format A. -/
  | fnmadd (frd : FprNum) (fra : FprNum) (frb : FprNum) (frc : FprNum) (rc : Bool)
  /-- `fcmpu`: R374, format X. -/
  | fcmpu (crfD : CrField) (z9 : BitVec 2) (fra : FprNum) (frb : FprNum) (z31 : BitVec 1)
  /-- `frsp`: R371, format X. -/
  | frsp (frd : FprNum) (z11 : BitVec 5) (frb : FprNum) (rc : Bool)
  /-- `fctiw`: R372, format X. -/
  | fctiw (frd : FprNum) (z11 : BitVec 5) (frb : FprNum) (rc : Bool)
  /-- `fctiwz`: R373, format X. -/
  | fctiwz (frd : FprNum) (z11 : BitVec 5) (frb : FprNum) (rc : Bool)
  /-- `fcmpo`: R375, format X. -/
  | fcmpo (crfD : CrField) (z9 : BitVec 2) (fra : FprNum) (frb : FprNum) (z31 : BitVec 1)
  /-- `mtfsb1`: R385, format X. -/
  | mtfsb1 (crbD : CrBit) (z11 : BitVec 5) (z16 : BitVec 5) (rc : Bool)
  /-- `fneg`: R377, format X. -/
  | fneg (frd : FprNum) (z11 : BitVec 5) (frb : FprNum) (rc : Bool)
  /-- `mcrfs`: R381, format X. -/
  | mcrfs (crfD : CrField) (z9 : BitVec 2) (crfS : CrField) (z14 : BitVec 2) (z16 : BitVec 5) (z31 : BitVec 1)
  /-- `mtfsb0`: R384, format X. -/
  | mtfsb0 (crbD : CrBit) (z11 : BitVec 5) (z16 : BitVec 5) (rc : Bool)
  /-- `fmr`: R376, format X. -/
  | fmr (frd : FprNum) (z11 : BitVec 5) (frb : FprNum) (rc : Bool)
  /-- `mtfsfi`: R382, format X. -/
  | mtfsfi (crfD : CrField) (z9 : BitVec 2) (z11 : BitVec 5) (imm : BitVec 4) (z20 : BitVec 1) (rc : Bool)
  /-- `fnabs`: R379, format X. -/
  | fnabs (frd : FprNum) (z11 : BitVec 5) (frb : FprNum) (rc : Bool)
  /-- `fabs`: R378, format X. -/
  | fabs (frd : FprNum) (z11 : BitVec 5) (frb : FprNum) (rc : Bool)
  /-- `mffs`: R380, format X. -/
  | mffs (frd : FprNum) (z11 : BitVec 5) (z16 : BitVec 5) (rc : Bool)
  /-- `mtfsf`: R383, format XFL. -/
  | mtfsf (z6 : BitVec 1) (fm : BitVec 8) (z15 : BitVec 1) (frb : FprNum) (rc : Bool)
deriving DecidableEq, Repr

end Sys2Proof
end

