-- ==== Sys2Proof/WellFormed.lean ====
section
/-! DEFINITION. When an instruction is in the assembler's form: every bit its format marks reserved holds 0.

The decoder does not ask for this (30_encoding.md R103: reserved bits are ignored), and neither does exec; a word with a
reserved bit set runs like the word with it clear. The operand fields need no check: each has the width of its field, so every
value of it is encodable. The ISA reference's invalid forms are not checked either (R106: they execute literally). -/

namespace Sys2Proof

/-- The assembler's form (R93, R103): no reserved bit is set. -/
def Instr.wellFormed : Instr → Bool
  | .twi _ _ _ => true
  | .mulli _ _ _ => true
  | .subfic _ _ _ => true
  | .cmpli _ z9 _ _ _ => z9 == 0
  | .cmpi _ z9 _ _ _ => z9 == 0
  | .addic _ _ _ => true
  | .addicDot _ _ _ => true
  | .addi _ _ _ => true
  | .addis _ _ _ => true
  | .bc _ _ _ _ _ => true
  | .sc z6 => z6 == 0
  | .b _ _ _ => true
  | .mcrf _ z9 _ z14 z16 z31 => z9 == 0 && z14 == 0 && z16 == 0 && z31 == 0
  | .bclr _ _ z16 _ => z16 == 0
  | .crnor _ _ _ z31 => z31 == 0
  | .rfi z6 z11 z16 z31 => z6 == 0 && z11 == 0 && z16 == 0 && z31 == 0
  | .crandc _ _ _ z31 => z31 == 0
  | .isync z6 z11 z16 z31 => z6 == 0 && z11 == 0 && z16 == 0 && z31 == 0
  | .crxor _ _ _ z31 => z31 == 0
  | .crnand _ _ _ z31 => z31 == 0
  | .crand _ _ _ z31 => z31 == 0
  | .creqv _ _ _ z31 => z31 == 0
  | .crorc _ _ _ z31 => z31 == 0
  | .cror _ _ _ z31 => z31 == 0
  | .bcctr _ _ z16 _ => z16 == 0
  | .rlwimi _ _ _ _ _ _ => true
  | .rlwinm _ _ _ _ _ _ => true
  | .rlwnm _ _ _ _ _ _ => true
  | .ori _ _ _ => true
  | .oris _ _ _ => true
  | .xori _ _ _ => true
  | .xoris _ _ _ => true
  | .andiDot _ _ _ => true
  | .andisDot _ _ _ => true
  | .cmp _ z9 _ _ _ z31 => z9 == 0 && z31 == 0
  | .tw _ _ _ z31 => z31 == 0
  | .subfc _ _ _ _ _ => true
  | .addc _ _ _ _ _ => true
  | .mulhwu _ _ _ _ => true
  | .mfcr _ z11 z16 z31 => z11 == 0 && z16 == 0 && z31 == 0
  | .lwarx _ _ _ z31 => z31 == 0
  | .lwzx _ _ _ z31 => z31 == 0
  | .slw _ _ _ _ => true
  | .cntlzw _ _ z16 _ => z16 == 0
  | .and _ _ _ _ => true
  | .cmpl _ z9 _ _ _ z31 => z9 == 0 && z31 == 0
  | .subf _ _ _ _ _ => true
  | .dcbst z6 _ _ z31 => z6 == 0 && z31 == 0
  | .lwzux _ _ _ z31 => z31 == 0
  | .andc _ _ _ _ => true
  | .mulhw _ _ _ _ => true
  | .mfmsr _ z11 z16 z31 => z11 == 0 && z16 == 0 && z31 == 0
  | .dcbf z6 _ _ z31 => z6 == 0 && z31 == 0
  | .lbzx _ _ _ z31 => z31 == 0
  | .neg _ _ z16 _ _ => z16 == 0
  | .lbzux _ _ _ z31 => z31 == 0
  | .nor _ _ _ _ => true
  | .subfe _ _ _ _ _ => true
  | .adde _ _ _ _ _ => true
  | .mtcrf _ z11 _ z20 z31 => z11 == 0 && z20 == 0 && z31 == 0
  | .mtmsr _ z11 z16 z31 => z11 == 0 && z16 == 0 && z31 == 0
  | .stwcxDot _ _ _ z31 => z31 == 0
  | .stwx _ _ _ z31 => z31 == 0
  | .stwux _ _ _ z31 => z31 == 0
  | .subfze _ _ z16 _ _ => z16 == 0
  | .addze _ _ z16 _ _ => z16 == 0
  | .mtsr _ z11 _ z16 z31 => z11 == 0 && z16 == 0 && z31 == 0
  | .stbx _ _ _ z31 => z31 == 0
  | .subfme _ _ z16 _ _ => z16 == 0
  | .addme _ _ z16 _ _ => z16 == 0
  | .mullw _ _ _ _ _ => true
  | .mtsrin _ z11 _ z31 => z11 == 0 && z31 == 0
  | .dcbtst z6 _ _ z31 => z6 == 0 && z31 == 0
  | .stbux _ _ _ z31 => z31 == 0
  | .add _ _ _ _ _ => true
  | .dcbt z6 _ _ z31 => z6 == 0 && z31 == 0
  | .lhzx _ _ _ z31 => z31 == 0
  | .eqv _ _ _ _ => true
  | .tlbie z6 z11 _ z31 => z6 == 0 && z11 == 0 && z31 == 0
  | .lhzux _ _ _ z31 => z31 == 0
  | .xor _ _ _ _ => true
  | .mfspr _ _ z31 => z31 == 0
  | .lhax _ _ _ z31 => z31 == 0
  | .mftb _ _ z31 => z31 == 0
  | .lhaux _ _ _ z31 => z31 == 0
  | .sthx _ _ _ z31 => z31 == 0
  | .orc _ _ _ _ => true
  | .sthux _ _ _ z31 => z31 == 0
  | .or _ _ _ _ => true
  | .divwu _ _ _ _ _ => true
  | .mtspr _ _ z31 => z31 == 0
  | .dcbi z6 _ _ z31 => z6 == 0 && z31 == 0
  | .nand _ _ _ _ => true
  | .divw _ _ _ _ _ => true
  | .mcrxr _ z9 z11 z16 z31 => z9 == 0 && z11 == 0 && z16 == 0 && z31 == 0
  | .lswx _ _ _ z31 => z31 == 0
  | .lwbrx _ _ _ z31 => z31 == 0
  | .lfsx _ _ _ z31 => z31 == 0
  | .srw _ _ _ _ => true
  | .tlbsync z6 z11 z16 z31 => z6 == 0 && z11 == 0 && z16 == 0 && z31 == 0
  | .lfsux _ _ _ z31 => z31 == 0
  | .mfsr _ z11 _ z16 z31 => z11 == 0 && z16 == 0 && z31 == 0
  | .lswi _ _ _ z31 => z31 == 0
  | .sync z6 z11 z16 z31 => z6 == 0 && z11 == 0 && z16 == 0 && z31 == 0
  | .lfdx _ _ _ z31 => z31 == 0
  | .lfdux _ _ _ z31 => z31 == 0
  | .mfsrin _ z11 _ z31 => z11 == 0 && z31 == 0
  | .stswx _ _ _ z31 => z31 == 0
  | .stwbrx _ _ _ z31 => z31 == 0
  | .stfsx _ _ _ z31 => z31 == 0
  | .stfsux _ _ _ z31 => z31 == 0
  | .stswi _ _ _ z31 => z31 == 0
  | .stfdx _ _ _ z31 => z31 == 0
  | .stfdux _ _ _ z31 => z31 == 0
  | .lhbrx _ _ _ z31 => z31 == 0
  | .sraw _ _ _ _ => true
  | .srawi _ _ _ _ => true
  | .eieio z6 z11 z16 z31 => z6 == 0 && z11 == 0 && z16 == 0 && z31 == 0
  | .sthbrx _ _ _ z31 => z31 == 0
  | .extsh _ _ z16 _ => z16 == 0
  | .extsb _ _ z16 _ => z16 == 0
  | .icbi z6 _ _ z31 => z6 == 0 && z31 == 0
  | .stfiwx _ _ _ z31 => z31 == 0
  | .dcbz z6 _ _ z31 => z6 == 0 && z31 == 0
  | .lwz _ _ _ => true
  | .lwzu _ _ _ => true
  | .lbz _ _ _ => true
  | .lbzu _ _ _ => true
  | .stw _ _ _ => true
  | .stwu _ _ _ => true
  | .stb _ _ _ => true
  | .stbu _ _ _ => true
  | .lhz _ _ _ => true
  | .lhzu _ _ _ => true
  | .lha _ _ _ => true
  | .lhau _ _ _ => true
  | .sth _ _ _ => true
  | .sthu _ _ _ => true
  | .lmw _ _ _ => true
  | .stmw _ _ _ => true
  | .lfs _ _ _ => true
  | .lfsu _ _ _ => true
  | .lfd _ _ _ => true
  | .lfdu _ _ _ => true
  | .stfs _ _ _ => true
  | .stfsu _ _ _ => true
  | .stfd _ _ _ => true
  | .stfdu _ _ _ => true
  | .fdivs _ _ _ z21 _ => z21 == 0
  | .fsubs _ _ _ z21 _ => z21 == 0
  | .fadds _ _ _ z21 _ => z21 == 0
  | .fres _ z11 _ z21 _ => z11 == 0 && z21 == 0
  | .fmuls _ _ z16 _ _ => z16 == 0
  | .fmsubs _ _ _ _ _ => true
  | .fmadds _ _ _ _ _ => true
  | .fnmsubs _ _ _ _ _ => true
  | .fnmadds _ _ _ _ _ => true
  | .fdiv _ _ _ z21 _ => z21 == 0
  | .fsub _ _ _ z21 _ => z21 == 0
  | .fadd _ _ _ z21 _ => z21 == 0
  | .fmul _ _ z16 _ _ => z16 == 0
  | .frsqrte _ z11 _ z21 _ => z11 == 0 && z21 == 0
  | .fmsub _ _ _ _ _ => true
  | .fmadd _ _ _ _ _ => true
  | .fnmsub _ _ _ _ _ => true
  | .fnmadd _ _ _ _ _ => true
  | .fcmpu _ z9 _ _ z31 => z9 == 0 && z31 == 0
  | .frsp _ z11 _ _ => z11 == 0
  | .fctiw _ z11 _ _ => z11 == 0
  | .fctiwz _ z11 _ _ => z11 == 0
  | .fcmpo _ z9 _ _ z31 => z9 == 0 && z31 == 0
  | .mtfsb1 _ z11 z16 _ => z11 == 0 && z16 == 0
  | .fneg _ z11 _ _ => z11 == 0
  | .mcrfs _ z9 _ z14 z16 z31 => z9 == 0 && z14 == 0 && z16 == 0 && z31 == 0
  | .mtfsb0 _ z11 z16 _ => z11 == 0 && z16 == 0
  | .fmr _ z11 _ _ => z11 == 0
  | .mtfsfi _ z9 z11 _ z20 _ => z9 == 0 && z11 == 0 && z20 == 0
  | .fnabs _ z11 _ _ => z11 == 0
  | .fabs _ z11 _ _ => z11 == 0
  | .mffs _ z11 z16 _ => z11 == 0 && z16 == 0
  | .mtfsf z6 _ z15 _ _ => z6 == 0 && z15 == 0

end Sys2Proof
end

