-- ==== Sys2Proof/Decode.lean ====
section
/-! DEFINITION. The decoder, total on any word and any bytes, which rejects by the name of the table that failed
(30_encoding.md R91, R97 to R102), and after it the encoder, written from the same rows, and the rows themselves
(spec/opcode_table.json). Bit numbers in comments are MSB-0 (00_scope.md R7); `take lo n` counts from the least significant
bit, as R92's column "extract" does. -/

namespace Sys2Proof

/-! ## Bit fields -/

/-- The field of `n` bits whose least significant bit has value 2^lo in the word: R92's `(w >> lo) & (2^n - 1)`. -/
def take (lo n : Nat) (w : Word) : BitVec n := w.extractLsb' lo n

/-- The word that holds `x` in the field whose least significant bit has value 2^lo, and 0 elsewhere. -/
def put {n : Nat} (lo : Nat) (x : BitVec n) : Word := x.setWidth 32 <<< lo

/-- A one-bit field read as a flag. -/
def takeBit (lo : Nat) (w : Word) : Bool := w.getLsbD lo

/-- A flag written as a one-bit field. -/
def putBit (lo : Nat) (b : Bool) : Word := put lo (BitVec.ofBool b)

/-- R95: the 10-bit SPR or TBR field holds the number with its two 5-bit halves swapped. Swapping twice gives it back. -/
def swapHalves (f : BitVec 10) : BitVec 10 := f.extractLsb' 0 5 ++ f.extractLsb' 5 5

/-- R99: an XO-form row with an OE bit occupies XO9 (OE = 0) and XO9 + 512 (OE = 1) of the ten-bit table-31 index. -/
def withOe (xo9 : Nat) (oe : Bool) : BitVec 10 := BitVec.ofNat 10 (if oe then xo9 + 512 else xo9)

/-- Primary opcode, bits 0:5 (R92). -/
def opcd (w : Word) : Nat := (take 26 6 w).toNat

/-- Secondary opcode of the X, XL, XFX and XFL forms, bits 21:30 (R92). -/
def xo10 (w : Word) : Nat := (take 1 10 w).toNat

/-- Secondary opcode of the A form, bits 26:30 (R92). -/
def xo5 (w : Word) : Nat := (take 1 5 w).toNat

/-! ## Decoding -/

/-- Where a word that is no instruction fell out of the two-level walk (R102, R137): no primary opcode, or no row of the table
the primary opcode selects. `truncated` is only for a list of fewer than four bytes, which no fetch produces. -/
inductive DecodeError where
  | unknown
  | unknown19
  | unknown31
  | unknown59
  | unknown63
  | truncated
deriving DecidableEq, Repr

/-- Table 19 (R98). -/
def decode19 (w : Word) : Except DecodeError Instr :=
  match xo10 w with
  | 0 => .ok (.mcrf (take 23 3 w) (take 21 2 w) (take 18 3 w) (take 16 2 w) (take 11 5 w) (take 0 1 w))
  | 16 => .ok (.bclr (take 21 5 w) (take 16 5 w) (take 11 5 w) (takeBit 0 w))
  | 33 => .ok (.crnor (take 21 5 w) (take 16 5 w) (take 11 5 w) (take 0 1 w))
  | 50 => .ok (.rfi (take 21 5 w) (take 16 5 w) (take 11 5 w) (take 0 1 w))
  | 129 => .ok (.crandc (take 21 5 w) (take 16 5 w) (take 11 5 w) (take 0 1 w))
  | 150 => .ok (.isync (take 21 5 w) (take 16 5 w) (take 11 5 w) (take 0 1 w))
  | 193 => .ok (.crxor (take 21 5 w) (take 16 5 w) (take 11 5 w) (take 0 1 w))
  | 225 => .ok (.crnand (take 21 5 w) (take 16 5 w) (take 11 5 w) (take 0 1 w))
  | 257 => .ok (.crand (take 21 5 w) (take 16 5 w) (take 11 5 w) (take 0 1 w))
  | 289 => .ok (.creqv (take 21 5 w) (take 16 5 w) (take 11 5 w) (take 0 1 w))
  | 417 => .ok (.crorc (take 21 5 w) (take 16 5 w) (take 11 5 w) (take 0 1 w))
  | 449 => .ok (.cror (take 21 5 w) (take 16 5 w) (take 11 5 w) (take 0 1 w))
  | 528 => .ok (.bcctr (take 21 5 w) (take 16 5 w) (take 11 5 w) (takeBit 0 w))
  | _ => .error .unknown19

/-- Table 31 (R99). -/
def decode31 (w : Word) : Except DecodeError Instr :=
  match xo10 w with
  | 0 => .ok (.cmp (take 23 3 w) (take 22 1 w) (takeBit 21 w) (take 16 5 w) (take 11 5 w) (take 0 1 w))
  | 4 => .ok (.tw (take 21 5 w) (take 16 5 w) (take 11 5 w) (take 0 1 w))
  | 8 | 520 => .ok (.subfc (take 21 5 w) (take 16 5 w) (take 11 5 w) (takeBit 10 w) (takeBit 0 w))
  | 10 | 522 => .ok (.addc (take 21 5 w) (take 16 5 w) (take 11 5 w) (takeBit 10 w) (takeBit 0 w))
  | 11 => .ok (.mulhwu (take 21 5 w) (take 16 5 w) (take 11 5 w) (takeBit 0 w))
  | 19 => .ok (.mfcr (take 21 5 w) (take 16 5 w) (take 11 5 w) (take 0 1 w))
  | 20 => .ok (.lwarx (take 21 5 w) (take 16 5 w) (take 11 5 w) (take 0 1 w))
  | 23 => .ok (.lwzx (take 21 5 w) (take 16 5 w) (take 11 5 w) (take 0 1 w))
  | 24 => .ok (.slw (take 21 5 w) (take 16 5 w) (take 11 5 w) (takeBit 0 w))
  | 26 => .ok (.cntlzw (take 21 5 w) (take 16 5 w) (take 11 5 w) (takeBit 0 w))
  | 28 => .ok (.and (take 21 5 w) (take 16 5 w) (take 11 5 w) (takeBit 0 w))
  | 32 => .ok (.cmpl (take 23 3 w) (take 22 1 w) (takeBit 21 w) (take 16 5 w) (take 11 5 w) (take 0 1 w))
  | 40 | 552 => .ok (.subf (take 21 5 w) (take 16 5 w) (take 11 5 w) (takeBit 10 w) (takeBit 0 w))
  | 54 => .ok (.dcbst (take 21 5 w) (take 16 5 w) (take 11 5 w) (take 0 1 w))
  | 55 => .ok (.lwzux (take 21 5 w) (take 16 5 w) (take 11 5 w) (take 0 1 w))
  | 60 => .ok (.andc (take 21 5 w) (take 16 5 w) (take 11 5 w) (takeBit 0 w))
  | 75 => .ok (.mulhw (take 21 5 w) (take 16 5 w) (take 11 5 w) (takeBit 0 w))
  | 83 => .ok (.mfmsr (take 21 5 w) (take 16 5 w) (take 11 5 w) (take 0 1 w))
  | 86 => .ok (.dcbf (take 21 5 w) (take 16 5 w) (take 11 5 w) (take 0 1 w))
  | 87 => .ok (.lbzx (take 21 5 w) (take 16 5 w) (take 11 5 w) (take 0 1 w))
  | 104 | 616 => .ok (.neg (take 21 5 w) (take 16 5 w) (take 11 5 w) (takeBit 10 w) (takeBit 0 w))
  | 119 => .ok (.lbzux (take 21 5 w) (take 16 5 w) (take 11 5 w) (take 0 1 w))
  | 124 => .ok (.nor (take 21 5 w) (take 16 5 w) (take 11 5 w) (takeBit 0 w))
  | 136 | 648 => .ok (.subfe (take 21 5 w) (take 16 5 w) (take 11 5 w) (takeBit 10 w) (takeBit 0 w))
  | 138 | 650 => .ok (.adde (take 21 5 w) (take 16 5 w) (take 11 5 w) (takeBit 10 w) (takeBit 0 w))
  | 144 => .ok (.mtcrf (take 21 5 w) (take 20 1 w) (take 12 8 w) (take 11 1 w) (take 0 1 w))
  | 146 => .ok (.mtmsr (take 21 5 w) (take 16 5 w) (take 11 5 w) (take 0 1 w))
  | 150 => .ok (.stwcxDot (take 21 5 w) (take 16 5 w) (take 11 5 w) (take 0 1 w))
  | 151 => .ok (.stwx (take 21 5 w) (take 16 5 w) (take 11 5 w) (take 0 1 w))
  | 183 => .ok (.stwux (take 21 5 w) (take 16 5 w) (take 11 5 w) (take 0 1 w))
  | 200 | 712 => .ok (.subfze (take 21 5 w) (take 16 5 w) (take 11 5 w) (takeBit 10 w) (takeBit 0 w))
  | 202 | 714 => .ok (.addze (take 21 5 w) (take 16 5 w) (take 11 5 w) (takeBit 10 w) (takeBit 0 w))
  | 210 => .ok (.mtsr (take 21 5 w) (take 20 1 w) (take 16 4 w) (take 11 5 w) (take 0 1 w))
  | 215 => .ok (.stbx (take 21 5 w) (take 16 5 w) (take 11 5 w) (take 0 1 w))
  | 232 | 744 => .ok (.subfme (take 21 5 w) (take 16 5 w) (take 11 5 w) (takeBit 10 w) (takeBit 0 w))
  | 234 | 746 => .ok (.addme (take 21 5 w) (take 16 5 w) (take 11 5 w) (takeBit 10 w) (takeBit 0 w))
  | 235 | 747 => .ok (.mullw (take 21 5 w) (take 16 5 w) (take 11 5 w) (takeBit 10 w) (takeBit 0 w))
  | 242 => .ok (.mtsrin (take 21 5 w) (take 16 5 w) (take 11 5 w) (take 0 1 w))
  | 246 => .ok (.dcbtst (take 21 5 w) (take 16 5 w) (take 11 5 w) (take 0 1 w))
  | 247 => .ok (.stbux (take 21 5 w) (take 16 5 w) (take 11 5 w) (take 0 1 w))
  | 266 | 778 => .ok (.add (take 21 5 w) (take 16 5 w) (take 11 5 w) (takeBit 10 w) (takeBit 0 w))
  | 278 => .ok (.dcbt (take 21 5 w) (take 16 5 w) (take 11 5 w) (take 0 1 w))
  | 279 => .ok (.lhzx (take 21 5 w) (take 16 5 w) (take 11 5 w) (take 0 1 w))
  | 284 => .ok (.eqv (take 21 5 w) (take 16 5 w) (take 11 5 w) (takeBit 0 w))
  | 306 => .ok (.tlbie (take 21 5 w) (take 16 5 w) (take 11 5 w) (take 0 1 w))
  | 311 => .ok (.lhzux (take 21 5 w) (take 16 5 w) (take 11 5 w) (take 0 1 w))
  | 316 => .ok (.xor (take 21 5 w) (take 16 5 w) (take 11 5 w) (takeBit 0 w))
  | 339 => .ok (.mfspr (take 21 5 w) (swapHalves (take 11 10 w)) (take 0 1 w))
  | 343 => .ok (.lhax (take 21 5 w) (take 16 5 w) (take 11 5 w) (take 0 1 w))
  | 371 => .ok (.mftb (take 21 5 w) (swapHalves (take 11 10 w)) (take 0 1 w))
  | 375 => .ok (.lhaux (take 21 5 w) (take 16 5 w) (take 11 5 w) (take 0 1 w))
  | 407 => .ok (.sthx (take 21 5 w) (take 16 5 w) (take 11 5 w) (take 0 1 w))
  | 412 => .ok (.orc (take 21 5 w) (take 16 5 w) (take 11 5 w) (takeBit 0 w))
  | 439 => .ok (.sthux (take 21 5 w) (take 16 5 w) (take 11 5 w) (take 0 1 w))
  | 444 => .ok (.or (take 21 5 w) (take 16 5 w) (take 11 5 w) (takeBit 0 w))
  | 459 | 971 => .ok (.divwu (take 21 5 w) (take 16 5 w) (take 11 5 w) (takeBit 10 w) (takeBit 0 w))
  | 467 => .ok (.mtspr (take 21 5 w) (swapHalves (take 11 10 w)) (take 0 1 w))
  | 470 => .ok (.dcbi (take 21 5 w) (take 16 5 w) (take 11 5 w) (take 0 1 w))
  | 476 => .ok (.nand (take 21 5 w) (take 16 5 w) (take 11 5 w) (takeBit 0 w))
  | 491 | 1003 => .ok (.divw (take 21 5 w) (take 16 5 w) (take 11 5 w) (takeBit 10 w) (takeBit 0 w))
  | 512 => .ok (.mcrxr (take 23 3 w) (take 21 2 w) (take 16 5 w) (take 11 5 w) (take 0 1 w))
  | 533 => .ok (.lswx (take 21 5 w) (take 16 5 w) (take 11 5 w) (take 0 1 w))
  | 534 => .ok (.lwbrx (take 21 5 w) (take 16 5 w) (take 11 5 w) (take 0 1 w))
  | 535 => .ok (.lfsx (take 21 5 w) (take 16 5 w) (take 11 5 w) (take 0 1 w))
  | 536 => .ok (.srw (take 21 5 w) (take 16 5 w) (take 11 5 w) (takeBit 0 w))
  | 566 => .ok (.tlbsync (take 21 5 w) (take 16 5 w) (take 11 5 w) (take 0 1 w))
  | 567 => .ok (.lfsux (take 21 5 w) (take 16 5 w) (take 11 5 w) (take 0 1 w))
  | 595 => .ok (.mfsr (take 21 5 w) (take 20 1 w) (take 16 4 w) (take 11 5 w) (take 0 1 w))
  | 597 => .ok (.lswi (take 21 5 w) (take 16 5 w) (take 11 5 w) (take 0 1 w))
  | 598 => .ok (.sync (take 21 5 w) (take 16 5 w) (take 11 5 w) (take 0 1 w))
  | 599 => .ok (.lfdx (take 21 5 w) (take 16 5 w) (take 11 5 w) (take 0 1 w))
  | 631 => .ok (.lfdux (take 21 5 w) (take 16 5 w) (take 11 5 w) (take 0 1 w))
  | 659 => .ok (.mfsrin (take 21 5 w) (take 16 5 w) (take 11 5 w) (take 0 1 w))
  | 661 => .ok (.stswx (take 21 5 w) (take 16 5 w) (take 11 5 w) (take 0 1 w))
  | 662 => .ok (.stwbrx (take 21 5 w) (take 16 5 w) (take 11 5 w) (take 0 1 w))
  | 663 => .ok (.stfsx (take 21 5 w) (take 16 5 w) (take 11 5 w) (take 0 1 w))
  | 695 => .ok (.stfsux (take 21 5 w) (take 16 5 w) (take 11 5 w) (take 0 1 w))
  | 725 => .ok (.stswi (take 21 5 w) (take 16 5 w) (take 11 5 w) (take 0 1 w))
  | 727 => .ok (.stfdx (take 21 5 w) (take 16 5 w) (take 11 5 w) (take 0 1 w))
  | 759 => .ok (.stfdux (take 21 5 w) (take 16 5 w) (take 11 5 w) (take 0 1 w))
  | 790 => .ok (.lhbrx (take 21 5 w) (take 16 5 w) (take 11 5 w) (take 0 1 w))
  | 792 => .ok (.sraw (take 21 5 w) (take 16 5 w) (take 11 5 w) (takeBit 0 w))
  | 824 => .ok (.srawi (take 21 5 w) (take 16 5 w) (take 11 5 w) (takeBit 0 w))
  | 854 => .ok (.eieio (take 21 5 w) (take 16 5 w) (take 11 5 w) (take 0 1 w))
  | 918 => .ok (.sthbrx (take 21 5 w) (take 16 5 w) (take 11 5 w) (take 0 1 w))
  | 922 => .ok (.extsh (take 21 5 w) (take 16 5 w) (take 11 5 w) (takeBit 0 w))
  | 954 => .ok (.extsb (take 21 5 w) (take 16 5 w) (take 11 5 w) (takeBit 0 w))
  | 982 => .ok (.icbi (take 21 5 w) (take 16 5 w) (take 11 5 w) (take 0 1 w))
  | 983 => .ok (.stfiwx (take 21 5 w) (take 16 5 w) (take 11 5 w) (take 0 1 w))
  | 1014 => .ok (.dcbz (take 21 5 w) (take 16 5 w) (take 11 5 w) (take 0 1 w))
  | _ => .error .unknown31

/-- Table 59 (R100). -/
def decode59 (w : Word) : Except DecodeError Instr :=
  match xo5 w with
  | 18 => .ok (.fdivs (take 21 5 w) (take 16 5 w) (take 11 5 w) (take 6 5 w) (takeBit 0 w))
  | 20 => .ok (.fsubs (take 21 5 w) (take 16 5 w) (take 11 5 w) (take 6 5 w) (takeBit 0 w))
  | 21 => .ok (.fadds (take 21 5 w) (take 16 5 w) (take 11 5 w) (take 6 5 w) (takeBit 0 w))
  | 24 => .ok (.fres (take 21 5 w) (take 16 5 w) (take 11 5 w) (take 6 5 w) (takeBit 0 w))
  | 25 => .ok (.fmuls (take 21 5 w) (take 16 5 w) (take 11 5 w) (take 6 5 w) (takeBit 0 w))
  | 28 => .ok (.fmsubs (take 21 5 w) (take 16 5 w) (take 11 5 w) (take 6 5 w) (takeBit 0 w))
  | 29 => .ok (.fmadds (take 21 5 w) (take 16 5 w) (take 11 5 w) (take 6 5 w) (takeBit 0 w))
  | 30 => .ok (.fnmsubs (take 21 5 w) (take 16 5 w) (take 11 5 w) (take 6 5 w) (takeBit 0 w))
  | 31 => .ok (.fnmadds (take 21 5 w) (take 16 5 w) (take 11 5 w) (take 6 5 w) (takeBit 0 w))
  | _ => .error .unknown59

/-- The X-form rows of table 63 (R101). -/
def decode63X (w : Word) : Except DecodeError Instr :=
  match xo10 w with
  | 0 => .ok (.fcmpu (take 23 3 w) (take 21 2 w) (take 16 5 w) (take 11 5 w) (take 0 1 w))
  | 12 => .ok (.frsp (take 21 5 w) (take 16 5 w) (take 11 5 w) (takeBit 0 w))
  | 14 => .ok (.fctiw (take 21 5 w) (take 16 5 w) (take 11 5 w) (takeBit 0 w))
  | 15 => .ok (.fctiwz (take 21 5 w) (take 16 5 w) (take 11 5 w) (takeBit 0 w))
  | 32 => .ok (.fcmpo (take 23 3 w) (take 21 2 w) (take 16 5 w) (take 11 5 w) (take 0 1 w))
  | 38 => .ok (.mtfsb1 (take 21 5 w) (take 16 5 w) (take 11 5 w) (takeBit 0 w))
  | 40 => .ok (.fneg (take 21 5 w) (take 16 5 w) (take 11 5 w) (takeBit 0 w))
  | 64 => .ok (.mcrfs (take 23 3 w) (take 21 2 w) (take 18 3 w) (take 16 2 w) (take 11 5 w) (take 0 1 w))
  | 70 => .ok (.mtfsb0 (take 21 5 w) (take 16 5 w) (take 11 5 w) (takeBit 0 w))
  | 72 => .ok (.fmr (take 21 5 w) (take 16 5 w) (take 11 5 w) (takeBit 0 w))
  | 134 => .ok (.mtfsfi (take 23 3 w) (take 21 2 w) (take 16 5 w) (take 12 4 w) (take 11 1 w) (takeBit 0 w))
  | 136 => .ok (.fnabs (take 21 5 w) (take 16 5 w) (take 11 5 w) (takeBit 0 w))
  | 264 => .ok (.fabs (take 21 5 w) (take 16 5 w) (take 11 5 w) (takeBit 0 w))
  | 583 => .ok (.mffs (take 21 5 w) (take 16 5 w) (take 11 5 w) (takeBit 0 w))
  | 711 => .ok (.mtfsf (take 25 1 w) (take 17 8 w) (take 16 1 w) (take 11 5 w) (takeBit 0 w))
  | _ => .error .unknown63

/-- Table 63 (R101): the A-form rows, then the X-form rows. -/
def decode63 (w : Word) : Except DecodeError Instr :=
  match xo5 w with
  | 18 => .ok (.fdiv (take 21 5 w) (take 16 5 w) (take 11 5 w) (take 6 5 w) (takeBit 0 w))
  | 20 => .ok (.fsub (take 21 5 w) (take 16 5 w) (take 11 5 w) (take 6 5 w) (takeBit 0 w))
  | 21 => .ok (.fadd (take 21 5 w) (take 16 5 w) (take 11 5 w) (take 6 5 w) (takeBit 0 w))
  | 25 => .ok (.fmul (take 21 5 w) (take 16 5 w) (take 11 5 w) (take 6 5 w) (takeBit 0 w))
  | 26 => .ok (.frsqrte (take 21 5 w) (take 16 5 w) (take 11 5 w) (take 6 5 w) (takeBit 0 w))
  | 28 => .ok (.fmsub (take 21 5 w) (take 16 5 w) (take 11 5 w) (take 6 5 w) (takeBit 0 w))
  | 29 => .ok (.fmadd (take 21 5 w) (take 16 5 w) (take 11 5 w) (take 6 5 w) (takeBit 0 w))
  | 30 => .ok (.fnmsub (take 21 5 w) (take 16 5 w) (take 11 5 w) (take 6 5 w) (takeBit 0 w))
  | 31 => .ok (.fnmadd (take 21 5 w) (take 16 5 w) (take 11 5 w) (take 6 5 w) (takeBit 0 w))
  | _ => decode63X w

/-- The decoder: the primary opcode selects an instruction or a table (R97, R102). It looks at nothing but the opcode fields (R103). -/
def decode (w : Word) : Except DecodeError Instr :=
  match opcd w with
  | 3 => .ok (.twi (take 21 5 w) (take 16 5 w) (take 0 16 w))
  | 7 => .ok (.mulli (take 21 5 w) (take 16 5 w) (take 0 16 w))
  | 8 => .ok (.subfic (take 21 5 w) (take 16 5 w) (take 0 16 w))
  | 10 => .ok (.cmpli (take 23 3 w) (take 22 1 w) (takeBit 21 w) (take 16 5 w) (take 0 16 w))
  | 11 => .ok (.cmpi (take 23 3 w) (take 22 1 w) (takeBit 21 w) (take 16 5 w) (take 0 16 w))
  | 12 => .ok (.addic (take 21 5 w) (take 16 5 w) (take 0 16 w))
  | 13 => .ok (.addicDot (take 21 5 w) (take 16 5 w) (take 0 16 w))
  | 14 => .ok (.addi (take 21 5 w) (take 16 5 w) (take 0 16 w))
  | 15 => .ok (.addis (take 21 5 w) (take 16 5 w) (take 0 16 w))
  | 16 => .ok (.bc (take 21 5 w) (take 16 5 w) (take 2 14 w) (takeBit 1 w) (takeBit 0 w))
  | 17 => .ok (.sc (take 0 26 w))
  | 18 => .ok (.b (take 2 24 w) (takeBit 1 w) (takeBit 0 w))
  | 20 => .ok (.rlwimi (take 21 5 w) (take 16 5 w) (take 11 5 w) (take 6 5 w) (take 1 5 w) (takeBit 0 w))
  | 21 => .ok (.rlwinm (take 21 5 w) (take 16 5 w) (take 11 5 w) (take 6 5 w) (take 1 5 w) (takeBit 0 w))
  | 23 => .ok (.rlwnm (take 21 5 w) (take 16 5 w) (take 11 5 w) (take 6 5 w) (take 1 5 w) (takeBit 0 w))
  | 24 => .ok (.ori (take 21 5 w) (take 16 5 w) (take 0 16 w))
  | 25 => .ok (.oris (take 21 5 w) (take 16 5 w) (take 0 16 w))
  | 26 => .ok (.xori (take 21 5 w) (take 16 5 w) (take 0 16 w))
  | 27 => .ok (.xoris (take 21 5 w) (take 16 5 w) (take 0 16 w))
  | 28 => .ok (.andiDot (take 21 5 w) (take 16 5 w) (take 0 16 w))
  | 29 => .ok (.andisDot (take 21 5 w) (take 16 5 w) (take 0 16 w))
  | 32 => .ok (.lwz (take 21 5 w) (take 16 5 w) (take 0 16 w))
  | 33 => .ok (.lwzu (take 21 5 w) (take 16 5 w) (take 0 16 w))
  | 34 => .ok (.lbz (take 21 5 w) (take 16 5 w) (take 0 16 w))
  | 35 => .ok (.lbzu (take 21 5 w) (take 16 5 w) (take 0 16 w))
  | 36 => .ok (.stw (take 21 5 w) (take 16 5 w) (take 0 16 w))
  | 37 => .ok (.stwu (take 21 5 w) (take 16 5 w) (take 0 16 w))
  | 38 => .ok (.stb (take 21 5 w) (take 16 5 w) (take 0 16 w))
  | 39 => .ok (.stbu (take 21 5 w) (take 16 5 w) (take 0 16 w))
  | 40 => .ok (.lhz (take 21 5 w) (take 16 5 w) (take 0 16 w))
  | 41 => .ok (.lhzu (take 21 5 w) (take 16 5 w) (take 0 16 w))
  | 42 => .ok (.lha (take 21 5 w) (take 16 5 w) (take 0 16 w))
  | 43 => .ok (.lhau (take 21 5 w) (take 16 5 w) (take 0 16 w))
  | 44 => .ok (.sth (take 21 5 w) (take 16 5 w) (take 0 16 w))
  | 45 => .ok (.sthu (take 21 5 w) (take 16 5 w) (take 0 16 w))
  | 46 => .ok (.lmw (take 21 5 w) (take 16 5 w) (take 0 16 w))
  | 47 => .ok (.stmw (take 21 5 w) (take 16 5 w) (take 0 16 w))
  | 48 => .ok (.lfs (take 21 5 w) (take 16 5 w) (take 0 16 w))
  | 49 => .ok (.lfsu (take 21 5 w) (take 16 5 w) (take 0 16 w))
  | 50 => .ok (.lfd (take 21 5 w) (take 16 5 w) (take 0 16 w))
  | 51 => .ok (.lfdu (take 21 5 w) (take 16 5 w) (take 0 16 w))
  | 52 => .ok (.stfs (take 21 5 w) (take 16 5 w) (take 0 16 w))
  | 53 => .ok (.stfsu (take 21 5 w) (take 16 5 w) (take 0 16 w))
  | 54 => .ok (.stfd (take 21 5 w) (take 16 5 w) (take 0 16 w))
  | 55 => .ok (.stfdu (take 21 5 w) (take 16 5 w) (take 0 16 w))
  | 19 => decode19 w
  | 31 => decode31 w
  | 59 => decode59 w
  | 63 => decode63 w
  | _ => .error .unknown

/-- Four bytes, the first at the lowest address, as the big-endian word they hold (R90, 20_memory.md R62). -/
def wordOfBytes (b0 b1 b2 b3 : Byte) : Word := b0 ++ b1 ++ b2 ++ b3

/-- The big-endian bytes of a word, the most significant at the lowest address (R62). -/
def bytesOfWord (w : Word) : List Byte := [take 24 8 w, take 16 8 w, take 8 8 w, take 0 8 w]

/-- The decoder on bytes: the instruction and the bytes after it. Every instruction takes exactly four bytes (R90). -/
def decodeBytes : List Byte → Except DecodeError (Instr × List Byte)
  | b0 :: b1 :: b2 :: b3 :: rest =>
    match decode (wordOfBytes b0 b1 b2 b3) with
    | .ok i => .ok (i, rest)
    | .error e => .error e
  | _ => .error .truncated

/-- The instruction the decoder reads from an instruction whose low `nbits` bits are those of `w` and whose other bits are 0,
laid out in memory as the machine stores it (big-endian); none where the decoder refuses. -/
def decodeTableWord (nbits w : Nat) : Option Instr :=
  match decodeBytes (bytesOfWord (BitVec.ofNat 32 (w % 2 ^ nbits))) with
  | .ok (i, _) => some i
  | .error _ => none

/-! ## Encoding -/

/-- The word of an instruction, from the same rows and formats (R92, R93, R95, R98 to R101). -/
def encode : Instr → Word
  | .twi tcond ra simm => put 26 (3 : BitVec 6) ||| put 21 tcond ||| put 16 ra ||| put 0 simm
  | .mulli rd ra simm => put 26 (7 : BitVec 6) ||| put 21 rd ||| put 16 ra ||| put 0 simm
  | .subfic rd ra simm => put 26 (8 : BitVec 6) ||| put 21 rd ||| put 16 ra ||| put 0 simm
  | .cmpli crfD z9 l ra uimm => put 26 (10 : BitVec 6) ||| put 23 crfD ||| put 22 z9 ||| putBit 21 l ||| put 16 ra ||| put 0 uimm
  | .cmpi crfD z9 l ra simm => put 26 (11 : BitVec 6) ||| put 23 crfD ||| put 22 z9 ||| putBit 21 l ||| put 16 ra ||| put 0 simm
  | .addic rd ra simm => put 26 (12 : BitVec 6) ||| put 21 rd ||| put 16 ra ||| put 0 simm
  | .addicDot rd ra simm => put 26 (13 : BitVec 6) ||| put 21 rd ||| put 16 ra ||| put 0 simm
  | .addi rd ra simm => put 26 (14 : BitVec 6) ||| put 21 rd ||| put 16 ra ||| put 0 simm
  | .addis rd ra simm => put 26 (15 : BitVec 6) ||| put 21 rd ||| put 16 ra ||| put 0 simm
  | .bc bo bi bd aa lk => put 26 (16 : BitVec 6) ||| put 21 bo ||| put 16 bi ||| put 2 bd ||| putBit 1 aa ||| putBit 0 lk
  | .sc z6 => put 26 (17 : BitVec 6) ||| put 0 z6
  | .b li aa lk => put 26 (18 : BitVec 6) ||| put 2 li ||| putBit 1 aa ||| putBit 0 lk
  | .mcrf crfD z9 crfS z14 z16 z31 => put 26 (19 : BitVec 6) ||| put 23 crfD ||| put 21 z9 ||| put 18 crfS ||| put 16 z14 ||| put 11 z16 ||| put 1 (0 : BitVec 10) ||| put 0 z31
  | .bclr bo bi z16 lk => put 26 (19 : BitVec 6) ||| put 21 bo ||| put 16 bi ||| put 11 z16 ||| put 1 (16 : BitVec 10) ||| putBit 0 lk
  | .crnor crbD crbA crbB z31 => put 26 (19 : BitVec 6) ||| put 21 crbD ||| put 16 crbA ||| put 11 crbB ||| put 1 (33 : BitVec 10) ||| put 0 z31
  | .rfi z6 z11 z16 z31 => put 26 (19 : BitVec 6) ||| put 21 z6 ||| put 16 z11 ||| put 11 z16 ||| put 1 (50 : BitVec 10) ||| put 0 z31
  | .crandc crbD crbA crbB z31 => put 26 (19 : BitVec 6) ||| put 21 crbD ||| put 16 crbA ||| put 11 crbB ||| put 1 (129 : BitVec 10) ||| put 0 z31
  | .isync z6 z11 z16 z31 => put 26 (19 : BitVec 6) ||| put 21 z6 ||| put 16 z11 ||| put 11 z16 ||| put 1 (150 : BitVec 10) ||| put 0 z31
  | .crxor crbD crbA crbB z31 => put 26 (19 : BitVec 6) ||| put 21 crbD ||| put 16 crbA ||| put 11 crbB ||| put 1 (193 : BitVec 10) ||| put 0 z31
  | .crnand crbD crbA crbB z31 => put 26 (19 : BitVec 6) ||| put 21 crbD ||| put 16 crbA ||| put 11 crbB ||| put 1 (225 : BitVec 10) ||| put 0 z31
  | .crand crbD crbA crbB z31 => put 26 (19 : BitVec 6) ||| put 21 crbD ||| put 16 crbA ||| put 11 crbB ||| put 1 (257 : BitVec 10) ||| put 0 z31
  | .creqv crbD crbA crbB z31 => put 26 (19 : BitVec 6) ||| put 21 crbD ||| put 16 crbA ||| put 11 crbB ||| put 1 (289 : BitVec 10) ||| put 0 z31
  | .crorc crbD crbA crbB z31 => put 26 (19 : BitVec 6) ||| put 21 crbD ||| put 16 crbA ||| put 11 crbB ||| put 1 (417 : BitVec 10) ||| put 0 z31
  | .cror crbD crbA crbB z31 => put 26 (19 : BitVec 6) ||| put 21 crbD ||| put 16 crbA ||| put 11 crbB ||| put 1 (449 : BitVec 10) ||| put 0 z31
  | .bcctr bo bi z16 lk => put 26 (19 : BitVec 6) ||| put 21 bo ||| put 16 bi ||| put 11 z16 ||| put 1 (528 : BitVec 10) ||| putBit 0 lk
  | .rlwimi rs ra sh mb me rc => put 26 (20 : BitVec 6) ||| put 21 rs ||| put 16 ra ||| put 11 sh ||| put 6 mb ||| put 1 me ||| putBit 0 rc
  | .rlwinm rs ra sh mb me rc => put 26 (21 : BitVec 6) ||| put 21 rs ||| put 16 ra ||| put 11 sh ||| put 6 mb ||| put 1 me ||| putBit 0 rc
  | .rlwnm rs ra rb mb me rc => put 26 (23 : BitVec 6) ||| put 21 rs ||| put 16 ra ||| put 11 rb ||| put 6 mb ||| put 1 me ||| putBit 0 rc
  | .ori rs ra uimm => put 26 (24 : BitVec 6) ||| put 21 rs ||| put 16 ra ||| put 0 uimm
  | .oris rs ra uimm => put 26 (25 : BitVec 6) ||| put 21 rs ||| put 16 ra ||| put 0 uimm
  | .xori rs ra uimm => put 26 (26 : BitVec 6) ||| put 21 rs ||| put 16 ra ||| put 0 uimm
  | .xoris rs ra uimm => put 26 (27 : BitVec 6) ||| put 21 rs ||| put 16 ra ||| put 0 uimm
  | .andiDot rs ra uimm => put 26 (28 : BitVec 6) ||| put 21 rs ||| put 16 ra ||| put 0 uimm
  | .andisDot rs ra uimm => put 26 (29 : BitVec 6) ||| put 21 rs ||| put 16 ra ||| put 0 uimm
  | .cmp crfD z9 l ra rb z31 => put 26 (31 : BitVec 6) ||| put 23 crfD ||| put 22 z9 ||| putBit 21 l ||| put 16 ra ||| put 11 rb ||| put 1 (0 : BitVec 10) ||| put 0 z31
  | .tw tcond ra rb z31 => put 26 (31 : BitVec 6) ||| put 21 tcond ||| put 16 ra ||| put 11 rb ||| put 1 (4 : BitVec 10) ||| put 0 z31
  | .subfc rd ra rb oe rc => put 26 (31 : BitVec 6) ||| put 21 rd ||| put 16 ra ||| put 11 rb ||| put 1 (withOe 8 oe) ||| putBit 0 rc
  | .addc rd ra rb oe rc => put 26 (31 : BitVec 6) ||| put 21 rd ||| put 16 ra ||| put 11 rb ||| put 1 (withOe 10 oe) ||| putBit 0 rc
  | .mulhwu rd ra rb rc => put 26 (31 : BitVec 6) ||| put 21 rd ||| put 16 ra ||| put 11 rb ||| put 1 (11 : BitVec 10) ||| putBit 0 rc
  | .mfcr rd z11 z16 z31 => put 26 (31 : BitVec 6) ||| put 21 rd ||| put 16 z11 ||| put 11 z16 ||| put 1 (19 : BitVec 10) ||| put 0 z31
  | .lwarx rd ra rb z31 => put 26 (31 : BitVec 6) ||| put 21 rd ||| put 16 ra ||| put 11 rb ||| put 1 (20 : BitVec 10) ||| put 0 z31
  | .lwzx rd ra rb z31 => put 26 (31 : BitVec 6) ||| put 21 rd ||| put 16 ra ||| put 11 rb ||| put 1 (23 : BitVec 10) ||| put 0 z31
  | .slw rs ra rb rc => put 26 (31 : BitVec 6) ||| put 21 rs ||| put 16 ra ||| put 11 rb ||| put 1 (24 : BitVec 10) ||| putBit 0 rc
  | .cntlzw rs ra z16 rc => put 26 (31 : BitVec 6) ||| put 21 rs ||| put 16 ra ||| put 11 z16 ||| put 1 (26 : BitVec 10) ||| putBit 0 rc
  | .and rs ra rb rc => put 26 (31 : BitVec 6) ||| put 21 rs ||| put 16 ra ||| put 11 rb ||| put 1 (28 : BitVec 10) ||| putBit 0 rc
  | .cmpl crfD z9 l ra rb z31 => put 26 (31 : BitVec 6) ||| put 23 crfD ||| put 22 z9 ||| putBit 21 l ||| put 16 ra ||| put 11 rb ||| put 1 (32 : BitVec 10) ||| put 0 z31
  | .subf rd ra rb oe rc => put 26 (31 : BitVec 6) ||| put 21 rd ||| put 16 ra ||| put 11 rb ||| put 1 (withOe 40 oe) ||| putBit 0 rc
  | .dcbst z6 ra rb z31 => put 26 (31 : BitVec 6) ||| put 21 z6 ||| put 16 ra ||| put 11 rb ||| put 1 (54 : BitVec 10) ||| put 0 z31
  | .lwzux rd ra rb z31 => put 26 (31 : BitVec 6) ||| put 21 rd ||| put 16 ra ||| put 11 rb ||| put 1 (55 : BitVec 10) ||| put 0 z31
  | .andc rs ra rb rc => put 26 (31 : BitVec 6) ||| put 21 rs ||| put 16 ra ||| put 11 rb ||| put 1 (60 : BitVec 10) ||| putBit 0 rc
  | .mulhw rd ra rb rc => put 26 (31 : BitVec 6) ||| put 21 rd ||| put 16 ra ||| put 11 rb ||| put 1 (75 : BitVec 10) ||| putBit 0 rc
  | .mfmsr rd z11 z16 z31 => put 26 (31 : BitVec 6) ||| put 21 rd ||| put 16 z11 ||| put 11 z16 ||| put 1 (83 : BitVec 10) ||| put 0 z31
  | .dcbf z6 ra rb z31 => put 26 (31 : BitVec 6) ||| put 21 z6 ||| put 16 ra ||| put 11 rb ||| put 1 (86 : BitVec 10) ||| put 0 z31
  | .lbzx rd ra rb z31 => put 26 (31 : BitVec 6) ||| put 21 rd ||| put 16 ra ||| put 11 rb ||| put 1 (87 : BitVec 10) ||| put 0 z31
  | .neg rd ra z16 oe rc => put 26 (31 : BitVec 6) ||| put 21 rd ||| put 16 ra ||| put 11 z16 ||| put 1 (withOe 104 oe) ||| putBit 0 rc
  | .lbzux rd ra rb z31 => put 26 (31 : BitVec 6) ||| put 21 rd ||| put 16 ra ||| put 11 rb ||| put 1 (119 : BitVec 10) ||| put 0 z31
  | .nor rs ra rb rc => put 26 (31 : BitVec 6) ||| put 21 rs ||| put 16 ra ||| put 11 rb ||| put 1 (124 : BitVec 10) ||| putBit 0 rc
  | .subfe rd ra rb oe rc => put 26 (31 : BitVec 6) ||| put 21 rd ||| put 16 ra ||| put 11 rb ||| put 1 (withOe 136 oe) ||| putBit 0 rc
  | .adde rd ra rb oe rc => put 26 (31 : BitVec 6) ||| put 21 rd ||| put 16 ra ||| put 11 rb ||| put 1 (withOe 138 oe) ||| putBit 0 rc
  | .mtcrf rs z11 crm z20 z31 => put 26 (31 : BitVec 6) ||| put 21 rs ||| put 20 z11 ||| put 12 crm ||| put 11 z20 ||| put 1 (144 : BitVec 10) ||| put 0 z31
  | .mtmsr rs z11 z16 z31 => put 26 (31 : BitVec 6) ||| put 21 rs ||| put 16 z11 ||| put 11 z16 ||| put 1 (146 : BitVec 10) ||| put 0 z31
  | .stwcxDot rs ra rb z31 => put 26 (31 : BitVec 6) ||| put 21 rs ||| put 16 ra ||| put 11 rb ||| put 1 (150 : BitVec 10) ||| put 0 z31
  | .stwx rs ra rb z31 => put 26 (31 : BitVec 6) ||| put 21 rs ||| put 16 ra ||| put 11 rb ||| put 1 (151 : BitVec 10) ||| put 0 z31
  | .stwux rs ra rb z31 => put 26 (31 : BitVec 6) ||| put 21 rs ||| put 16 ra ||| put 11 rb ||| put 1 (183 : BitVec 10) ||| put 0 z31
  | .subfze rd ra z16 oe rc => put 26 (31 : BitVec 6) ||| put 21 rd ||| put 16 ra ||| put 11 z16 ||| put 1 (withOe 200 oe) ||| putBit 0 rc
  | .addze rd ra z16 oe rc => put 26 (31 : BitVec 6) ||| put 21 rd ||| put 16 ra ||| put 11 z16 ||| put 1 (withOe 202 oe) ||| putBit 0 rc
  | .mtsr rs z11 sr z16 z31 => put 26 (31 : BitVec 6) ||| put 21 rs ||| put 20 z11 ||| put 16 sr ||| put 11 z16 ||| put 1 (210 : BitVec 10) ||| put 0 z31
  | .stbx rs ra rb z31 => put 26 (31 : BitVec 6) ||| put 21 rs ||| put 16 ra ||| put 11 rb ||| put 1 (215 : BitVec 10) ||| put 0 z31
  | .subfme rd ra z16 oe rc => put 26 (31 : BitVec 6) ||| put 21 rd ||| put 16 ra ||| put 11 z16 ||| put 1 (withOe 232 oe) ||| putBit 0 rc
  | .addme rd ra z16 oe rc => put 26 (31 : BitVec 6) ||| put 21 rd ||| put 16 ra ||| put 11 z16 ||| put 1 (withOe 234 oe) ||| putBit 0 rc
  | .mullw rd ra rb oe rc => put 26 (31 : BitVec 6) ||| put 21 rd ||| put 16 ra ||| put 11 rb ||| put 1 (withOe 235 oe) ||| putBit 0 rc
  | .mtsrin rs z11 rb z31 => put 26 (31 : BitVec 6) ||| put 21 rs ||| put 16 z11 ||| put 11 rb ||| put 1 (242 : BitVec 10) ||| put 0 z31
  | .dcbtst z6 ra rb z31 => put 26 (31 : BitVec 6) ||| put 21 z6 ||| put 16 ra ||| put 11 rb ||| put 1 (246 : BitVec 10) ||| put 0 z31
  | .stbux rs ra rb z31 => put 26 (31 : BitVec 6) ||| put 21 rs ||| put 16 ra ||| put 11 rb ||| put 1 (247 : BitVec 10) ||| put 0 z31
  | .add rd ra rb oe rc => put 26 (31 : BitVec 6) ||| put 21 rd ||| put 16 ra ||| put 11 rb ||| put 1 (withOe 266 oe) ||| putBit 0 rc
  | .dcbt z6 ra rb z31 => put 26 (31 : BitVec 6) ||| put 21 z6 ||| put 16 ra ||| put 11 rb ||| put 1 (278 : BitVec 10) ||| put 0 z31
  | .lhzx rd ra rb z31 => put 26 (31 : BitVec 6) ||| put 21 rd ||| put 16 ra ||| put 11 rb ||| put 1 (279 : BitVec 10) ||| put 0 z31
  | .eqv rs ra rb rc => put 26 (31 : BitVec 6) ||| put 21 rs ||| put 16 ra ||| put 11 rb ||| put 1 (284 : BitVec 10) ||| putBit 0 rc
  | .tlbie z6 z11 rb z31 => put 26 (31 : BitVec 6) ||| put 21 z6 ||| put 16 z11 ||| put 11 rb ||| put 1 (306 : BitVec 10) ||| put 0 z31
  | .lhzux rd ra rb z31 => put 26 (31 : BitVec 6) ||| put 21 rd ||| put 16 ra ||| put 11 rb ||| put 1 (311 : BitVec 10) ||| put 0 z31
  | .xor rs ra rb rc => put 26 (31 : BitVec 6) ||| put 21 rs ||| put 16 ra ||| put 11 rb ||| put 1 (316 : BitVec 10) ||| putBit 0 rc
  | .mfspr rd spr z31 => put 26 (31 : BitVec 6) ||| put 21 rd ||| put 11 (swapHalves spr) ||| put 1 (339 : BitVec 10) ||| put 0 z31
  | .lhax rd ra rb z31 => put 26 (31 : BitVec 6) ||| put 21 rd ||| put 16 ra ||| put 11 rb ||| put 1 (343 : BitVec 10) ||| put 0 z31
  | .mftb rd tbr z31 => put 26 (31 : BitVec 6) ||| put 21 rd ||| put 11 (swapHalves tbr) ||| put 1 (371 : BitVec 10) ||| put 0 z31
  | .lhaux rd ra rb z31 => put 26 (31 : BitVec 6) ||| put 21 rd ||| put 16 ra ||| put 11 rb ||| put 1 (375 : BitVec 10) ||| put 0 z31
  | .sthx rs ra rb z31 => put 26 (31 : BitVec 6) ||| put 21 rs ||| put 16 ra ||| put 11 rb ||| put 1 (407 : BitVec 10) ||| put 0 z31
  | .orc rs ra rb rc => put 26 (31 : BitVec 6) ||| put 21 rs ||| put 16 ra ||| put 11 rb ||| put 1 (412 : BitVec 10) ||| putBit 0 rc
  | .sthux rs ra rb z31 => put 26 (31 : BitVec 6) ||| put 21 rs ||| put 16 ra ||| put 11 rb ||| put 1 (439 : BitVec 10) ||| put 0 z31
  | .or rs ra rb rc => put 26 (31 : BitVec 6) ||| put 21 rs ||| put 16 ra ||| put 11 rb ||| put 1 (444 : BitVec 10) ||| putBit 0 rc
  | .divwu rd ra rb oe rc => put 26 (31 : BitVec 6) ||| put 21 rd ||| put 16 ra ||| put 11 rb ||| put 1 (withOe 459 oe) ||| putBit 0 rc
  | .mtspr rs spr z31 => put 26 (31 : BitVec 6) ||| put 21 rs ||| put 11 (swapHalves spr) ||| put 1 (467 : BitVec 10) ||| put 0 z31
  | .dcbi z6 ra rb z31 => put 26 (31 : BitVec 6) ||| put 21 z6 ||| put 16 ra ||| put 11 rb ||| put 1 (470 : BitVec 10) ||| put 0 z31
  | .nand rs ra rb rc => put 26 (31 : BitVec 6) ||| put 21 rs ||| put 16 ra ||| put 11 rb ||| put 1 (476 : BitVec 10) ||| putBit 0 rc
  | .divw rd ra rb oe rc => put 26 (31 : BitVec 6) ||| put 21 rd ||| put 16 ra ||| put 11 rb ||| put 1 (withOe 491 oe) ||| putBit 0 rc
  | .mcrxr crfD z9 z11 z16 z31 => put 26 (31 : BitVec 6) ||| put 23 crfD ||| put 21 z9 ||| put 16 z11 ||| put 11 z16 ||| put 1 (512 : BitVec 10) ||| put 0 z31
  | .lswx rd ra rb z31 => put 26 (31 : BitVec 6) ||| put 21 rd ||| put 16 ra ||| put 11 rb ||| put 1 (533 : BitVec 10) ||| put 0 z31
  | .lwbrx rd ra rb z31 => put 26 (31 : BitVec 6) ||| put 21 rd ||| put 16 ra ||| put 11 rb ||| put 1 (534 : BitVec 10) ||| put 0 z31
  | .lfsx frd ra rb z31 => put 26 (31 : BitVec 6) ||| put 21 frd ||| put 16 ra ||| put 11 rb ||| put 1 (535 : BitVec 10) ||| put 0 z31
  | .srw rs ra rb rc => put 26 (31 : BitVec 6) ||| put 21 rs ||| put 16 ra ||| put 11 rb ||| put 1 (536 : BitVec 10) ||| putBit 0 rc
  | .tlbsync z6 z11 z16 z31 => put 26 (31 : BitVec 6) ||| put 21 z6 ||| put 16 z11 ||| put 11 z16 ||| put 1 (566 : BitVec 10) ||| put 0 z31
  | .lfsux frd ra rb z31 => put 26 (31 : BitVec 6) ||| put 21 frd ||| put 16 ra ||| put 11 rb ||| put 1 (567 : BitVec 10) ||| put 0 z31
  | .mfsr rd z11 sr z16 z31 => put 26 (31 : BitVec 6) ||| put 21 rd ||| put 20 z11 ||| put 16 sr ||| put 11 z16 ||| put 1 (595 : BitVec 10) ||| put 0 z31
  | .lswi rd ra nb z31 => put 26 (31 : BitVec 6) ||| put 21 rd ||| put 16 ra ||| put 11 nb ||| put 1 (597 : BitVec 10) ||| put 0 z31
  | .sync z6 z11 z16 z31 => put 26 (31 : BitVec 6) ||| put 21 z6 ||| put 16 z11 ||| put 11 z16 ||| put 1 (598 : BitVec 10) ||| put 0 z31
  | .lfdx frd ra rb z31 => put 26 (31 : BitVec 6) ||| put 21 frd ||| put 16 ra ||| put 11 rb ||| put 1 (599 : BitVec 10) ||| put 0 z31
  | .lfdux frd ra rb z31 => put 26 (31 : BitVec 6) ||| put 21 frd ||| put 16 ra ||| put 11 rb ||| put 1 (631 : BitVec 10) ||| put 0 z31
  | .mfsrin rd z11 rb z31 => put 26 (31 : BitVec 6) ||| put 21 rd ||| put 16 z11 ||| put 11 rb ||| put 1 (659 : BitVec 10) ||| put 0 z31
  | .stswx rs ra rb z31 => put 26 (31 : BitVec 6) ||| put 21 rs ||| put 16 ra ||| put 11 rb ||| put 1 (661 : BitVec 10) ||| put 0 z31
  | .stwbrx rs ra rb z31 => put 26 (31 : BitVec 6) ||| put 21 rs ||| put 16 ra ||| put 11 rb ||| put 1 (662 : BitVec 10) ||| put 0 z31
  | .stfsx frs ra rb z31 => put 26 (31 : BitVec 6) ||| put 21 frs ||| put 16 ra ||| put 11 rb ||| put 1 (663 : BitVec 10) ||| put 0 z31
  | .stfsux frs ra rb z31 => put 26 (31 : BitVec 6) ||| put 21 frs ||| put 16 ra ||| put 11 rb ||| put 1 (695 : BitVec 10) ||| put 0 z31
  | .stswi rs ra nb z31 => put 26 (31 : BitVec 6) ||| put 21 rs ||| put 16 ra ||| put 11 nb ||| put 1 (725 : BitVec 10) ||| put 0 z31
  | .stfdx frs ra rb z31 => put 26 (31 : BitVec 6) ||| put 21 frs ||| put 16 ra ||| put 11 rb ||| put 1 (727 : BitVec 10) ||| put 0 z31
  | .stfdux frs ra rb z31 => put 26 (31 : BitVec 6) ||| put 21 frs ||| put 16 ra ||| put 11 rb ||| put 1 (759 : BitVec 10) ||| put 0 z31
  | .lhbrx rd ra rb z31 => put 26 (31 : BitVec 6) ||| put 21 rd ||| put 16 ra ||| put 11 rb ||| put 1 (790 : BitVec 10) ||| put 0 z31
  | .sraw rs ra rb rc => put 26 (31 : BitVec 6) ||| put 21 rs ||| put 16 ra ||| put 11 rb ||| put 1 (792 : BitVec 10) ||| putBit 0 rc
  | .srawi rs ra sh rc => put 26 (31 : BitVec 6) ||| put 21 rs ||| put 16 ra ||| put 11 sh ||| put 1 (824 : BitVec 10) ||| putBit 0 rc
  | .eieio z6 z11 z16 z31 => put 26 (31 : BitVec 6) ||| put 21 z6 ||| put 16 z11 ||| put 11 z16 ||| put 1 (854 : BitVec 10) ||| put 0 z31
  | .sthbrx rs ra rb z31 => put 26 (31 : BitVec 6) ||| put 21 rs ||| put 16 ra ||| put 11 rb ||| put 1 (918 : BitVec 10) ||| put 0 z31
  | .extsh rs ra z16 rc => put 26 (31 : BitVec 6) ||| put 21 rs ||| put 16 ra ||| put 11 z16 ||| put 1 (922 : BitVec 10) ||| putBit 0 rc
  | .extsb rs ra z16 rc => put 26 (31 : BitVec 6) ||| put 21 rs ||| put 16 ra ||| put 11 z16 ||| put 1 (954 : BitVec 10) ||| putBit 0 rc
  | .icbi z6 ra rb z31 => put 26 (31 : BitVec 6) ||| put 21 z6 ||| put 16 ra ||| put 11 rb ||| put 1 (982 : BitVec 10) ||| put 0 z31
  | .stfiwx frs ra rb z31 => put 26 (31 : BitVec 6) ||| put 21 frs ||| put 16 ra ||| put 11 rb ||| put 1 (983 : BitVec 10) ||| put 0 z31
  | .dcbz z6 ra rb z31 => put 26 (31 : BitVec 6) ||| put 21 z6 ||| put 16 ra ||| put 11 rb ||| put 1 (1014 : BitVec 10) ||| put 0 z31
  | .lwz rd ra d => put 26 (32 : BitVec 6) ||| put 21 rd ||| put 16 ra ||| put 0 d
  | .lwzu rd ra d => put 26 (33 : BitVec 6) ||| put 21 rd ||| put 16 ra ||| put 0 d
  | .lbz rd ra d => put 26 (34 : BitVec 6) ||| put 21 rd ||| put 16 ra ||| put 0 d
  | .lbzu rd ra d => put 26 (35 : BitVec 6) ||| put 21 rd ||| put 16 ra ||| put 0 d
  | .stw rs ra d => put 26 (36 : BitVec 6) ||| put 21 rs ||| put 16 ra ||| put 0 d
  | .stwu rs ra d => put 26 (37 : BitVec 6) ||| put 21 rs ||| put 16 ra ||| put 0 d
  | .stb rs ra d => put 26 (38 : BitVec 6) ||| put 21 rs ||| put 16 ra ||| put 0 d
  | .stbu rs ra d => put 26 (39 : BitVec 6) ||| put 21 rs ||| put 16 ra ||| put 0 d
  | .lhz rd ra d => put 26 (40 : BitVec 6) ||| put 21 rd ||| put 16 ra ||| put 0 d
  | .lhzu rd ra d => put 26 (41 : BitVec 6) ||| put 21 rd ||| put 16 ra ||| put 0 d
  | .lha rd ra d => put 26 (42 : BitVec 6) ||| put 21 rd ||| put 16 ra ||| put 0 d
  | .lhau rd ra d => put 26 (43 : BitVec 6) ||| put 21 rd ||| put 16 ra ||| put 0 d
  | .sth rs ra d => put 26 (44 : BitVec 6) ||| put 21 rs ||| put 16 ra ||| put 0 d
  | .sthu rs ra d => put 26 (45 : BitVec 6) ||| put 21 rs ||| put 16 ra ||| put 0 d
  | .lmw rd ra d => put 26 (46 : BitVec 6) ||| put 21 rd ||| put 16 ra ||| put 0 d
  | .stmw rs ra d => put 26 (47 : BitVec 6) ||| put 21 rs ||| put 16 ra ||| put 0 d
  | .lfs frd ra d => put 26 (48 : BitVec 6) ||| put 21 frd ||| put 16 ra ||| put 0 d
  | .lfsu frd ra d => put 26 (49 : BitVec 6) ||| put 21 frd ||| put 16 ra ||| put 0 d
  | .lfd frd ra d => put 26 (50 : BitVec 6) ||| put 21 frd ||| put 16 ra ||| put 0 d
  | .lfdu frd ra d => put 26 (51 : BitVec 6) ||| put 21 frd ||| put 16 ra ||| put 0 d
  | .stfs frs ra d => put 26 (52 : BitVec 6) ||| put 21 frs ||| put 16 ra ||| put 0 d
  | .stfsu frs ra d => put 26 (53 : BitVec 6) ||| put 21 frs ||| put 16 ra ||| put 0 d
  | .stfd frs ra d => put 26 (54 : BitVec 6) ||| put 21 frs ||| put 16 ra ||| put 0 d
  | .stfdu frs ra d => put 26 (55 : BitVec 6) ||| put 21 frs ||| put 16 ra ||| put 0 d
  | .fdivs frd fra frb z21 rc => put 26 (59 : BitVec 6) ||| put 21 frd ||| put 16 fra ||| put 11 frb ||| put 6 z21 ||| put 1 (18 : BitVec 5) ||| putBit 0 rc
  | .fsubs frd fra frb z21 rc => put 26 (59 : BitVec 6) ||| put 21 frd ||| put 16 fra ||| put 11 frb ||| put 6 z21 ||| put 1 (20 : BitVec 5) ||| putBit 0 rc
  | .fadds frd fra frb z21 rc => put 26 (59 : BitVec 6) ||| put 21 frd ||| put 16 fra ||| put 11 frb ||| put 6 z21 ||| put 1 (21 : BitVec 5) ||| putBit 0 rc
  | .fres frd z11 frb z21 rc => put 26 (59 : BitVec 6) ||| put 21 frd ||| put 16 z11 ||| put 11 frb ||| put 6 z21 ||| put 1 (24 : BitVec 5) ||| putBit 0 rc
  | .fmuls frd fra z16 frc rc => put 26 (59 : BitVec 6) ||| put 21 frd ||| put 16 fra ||| put 11 z16 ||| put 6 frc ||| put 1 (25 : BitVec 5) ||| putBit 0 rc
  | .fmsubs frd fra frb frc rc => put 26 (59 : BitVec 6) ||| put 21 frd ||| put 16 fra ||| put 11 frb ||| put 6 frc ||| put 1 (28 : BitVec 5) ||| putBit 0 rc
  | .fmadds frd fra frb frc rc => put 26 (59 : BitVec 6) ||| put 21 frd ||| put 16 fra ||| put 11 frb ||| put 6 frc ||| put 1 (29 : BitVec 5) ||| putBit 0 rc
  | .fnmsubs frd fra frb frc rc => put 26 (59 : BitVec 6) ||| put 21 frd ||| put 16 fra ||| put 11 frb ||| put 6 frc ||| put 1 (30 : BitVec 5) ||| putBit 0 rc
  | .fnmadds frd fra frb frc rc => put 26 (59 : BitVec 6) ||| put 21 frd ||| put 16 fra ||| put 11 frb ||| put 6 frc ||| put 1 (31 : BitVec 5) ||| putBit 0 rc
  | .fdiv frd fra frb z21 rc => put 26 (63 : BitVec 6) ||| put 21 frd ||| put 16 fra ||| put 11 frb ||| put 6 z21 ||| put 1 (18 : BitVec 5) ||| putBit 0 rc
  | .fsub frd fra frb z21 rc => put 26 (63 : BitVec 6) ||| put 21 frd ||| put 16 fra ||| put 11 frb ||| put 6 z21 ||| put 1 (20 : BitVec 5) ||| putBit 0 rc
  | .fadd frd fra frb z21 rc => put 26 (63 : BitVec 6) ||| put 21 frd ||| put 16 fra ||| put 11 frb ||| put 6 z21 ||| put 1 (21 : BitVec 5) ||| putBit 0 rc
  | .fmul frd fra z16 frc rc => put 26 (63 : BitVec 6) ||| put 21 frd ||| put 16 fra ||| put 11 z16 ||| put 6 frc ||| put 1 (25 : BitVec 5) ||| putBit 0 rc
  | .frsqrte frd z11 frb z21 rc => put 26 (63 : BitVec 6) ||| put 21 frd ||| put 16 z11 ||| put 11 frb ||| put 6 z21 ||| put 1 (26 : BitVec 5) ||| putBit 0 rc
  | .fmsub frd fra frb frc rc => put 26 (63 : BitVec 6) ||| put 21 frd ||| put 16 fra ||| put 11 frb ||| put 6 frc ||| put 1 (28 : BitVec 5) ||| putBit 0 rc
  | .fmadd frd fra frb frc rc => put 26 (63 : BitVec 6) ||| put 21 frd ||| put 16 fra ||| put 11 frb ||| put 6 frc ||| put 1 (29 : BitVec 5) ||| putBit 0 rc
  | .fnmsub frd fra frb frc rc => put 26 (63 : BitVec 6) ||| put 21 frd ||| put 16 fra ||| put 11 frb ||| put 6 frc ||| put 1 (30 : BitVec 5) ||| putBit 0 rc
  | .fnmadd frd fra frb frc rc => put 26 (63 : BitVec 6) ||| put 21 frd ||| put 16 fra ||| put 11 frb ||| put 6 frc ||| put 1 (31 : BitVec 5) ||| putBit 0 rc
  | .fcmpu crfD z9 fra frb z31 => put 26 (63 : BitVec 6) ||| put 23 crfD ||| put 21 z9 ||| put 16 fra ||| put 11 frb ||| put 1 (0 : BitVec 10) ||| put 0 z31
  | .frsp frd z11 frb rc => put 26 (63 : BitVec 6) ||| put 21 frd ||| put 16 z11 ||| put 11 frb ||| put 1 (12 : BitVec 10) ||| putBit 0 rc
  | .fctiw frd z11 frb rc => put 26 (63 : BitVec 6) ||| put 21 frd ||| put 16 z11 ||| put 11 frb ||| put 1 (14 : BitVec 10) ||| putBit 0 rc
  | .fctiwz frd z11 frb rc => put 26 (63 : BitVec 6) ||| put 21 frd ||| put 16 z11 ||| put 11 frb ||| put 1 (15 : BitVec 10) ||| putBit 0 rc
  | .fcmpo crfD z9 fra frb z31 => put 26 (63 : BitVec 6) ||| put 23 crfD ||| put 21 z9 ||| put 16 fra ||| put 11 frb ||| put 1 (32 : BitVec 10) ||| put 0 z31
  | .mtfsb1 crbD z11 z16 rc => put 26 (63 : BitVec 6) ||| put 21 crbD ||| put 16 z11 ||| put 11 z16 ||| put 1 (38 : BitVec 10) ||| putBit 0 rc
  | .fneg frd z11 frb rc => put 26 (63 : BitVec 6) ||| put 21 frd ||| put 16 z11 ||| put 11 frb ||| put 1 (40 : BitVec 10) ||| putBit 0 rc
  | .mcrfs crfD z9 crfS z14 z16 z31 => put 26 (63 : BitVec 6) ||| put 23 crfD ||| put 21 z9 ||| put 18 crfS ||| put 16 z14 ||| put 11 z16 ||| put 1 (64 : BitVec 10) ||| put 0 z31
  | .mtfsb0 crbD z11 z16 rc => put 26 (63 : BitVec 6) ||| put 21 crbD ||| put 16 z11 ||| put 11 z16 ||| put 1 (70 : BitVec 10) ||| putBit 0 rc
  | .fmr frd z11 frb rc => put 26 (63 : BitVec 6) ||| put 21 frd ||| put 16 z11 ||| put 11 frb ||| put 1 (72 : BitVec 10) ||| putBit 0 rc
  | .mtfsfi crfD z9 z11 imm z20 rc => put 26 (63 : BitVec 6) ||| put 23 crfD ||| put 21 z9 ||| put 16 z11 ||| put 12 imm ||| put 11 z20 ||| put 1 (134 : BitVec 10) ||| putBit 0 rc
  | .fnabs frd z11 frb rc => put 26 (63 : BitVec 6) ||| put 21 frd ||| put 16 z11 ||| put 11 frb ||| put 1 (136 : BitVec 10) ||| putBit 0 rc
  | .fabs frd z11 frb rc => put 26 (63 : BitVec 6) ||| put 21 frd ||| put 16 z11 ||| put 11 frb ||| put 1 (264 : BitVec 10) ||| putBit 0 rc
  | .mffs frd z11 z16 rc => put 26 (63 : BitVec 6) ||| put 21 frd ||| put 16 z11 ||| put 11 z16 ||| put 1 (583 : BitVec 10) ||| putBit 0 rc
  | .mtfsf z6 fm z15 frb rc => put 26 (63 : BitVec 6) ||| put 25 z6 ||| put 17 fm ||| put 16 z15 ||| put 11 frb ||| put 1 (711 : BitVec 10) ||| putBit 0 rc

/-- The four bytes of an instruction as they lie in memory (R90). -/
def encodeBytes (i : Instr) : List Byte := bytesOfWord (encode i)

/-! ## The rows of spec/opcode_table.json -/

/-- A row's mask and match (R102): a word is this row's when `w &&& mask = value`. -/
structure OpcodeRow where
  mask : Word
  value : Word
deriving DecidableEq, Repr

/-- A word is selected by a row (R102). -/
def OpcodeRow.selects (r : OpcodeRow) (w : Word) : Bool := w &&& r.mask == r.value

/-- The row of each instruction, in the table's order. -/
def Instr.row : Instr → OpcodeRow
  | .twi .. => ⟨0xFC000000, 0x0C000000⟩
  | .mulli .. => ⟨0xFC000000, 0x1C000000⟩
  | .subfic .. => ⟨0xFC000000, 0x20000000⟩
  | .cmpli .. => ⟨0xFC000000, 0x28000000⟩
  | .cmpi .. => ⟨0xFC000000, 0x2C000000⟩
  | .addic .. => ⟨0xFC000000, 0x30000000⟩
  | .addicDot .. => ⟨0xFC000000, 0x34000000⟩
  | .addi .. => ⟨0xFC000000, 0x38000000⟩
  | .addis .. => ⟨0xFC000000, 0x3C000000⟩
  | .bc .. => ⟨0xFC000000, 0x40000000⟩
  | .sc .. => ⟨0xFC000000, 0x44000000⟩
  | .b .. => ⟨0xFC000000, 0x48000000⟩
  | .mcrf .. => ⟨0xFC0007FE, 0x4C000000⟩
  | .bclr .. => ⟨0xFC0007FE, 0x4C000020⟩
  | .crnor .. => ⟨0xFC0007FE, 0x4C000042⟩
  | .rfi .. => ⟨0xFC0007FE, 0x4C000064⟩
  | .crandc .. => ⟨0xFC0007FE, 0x4C000102⟩
  | .isync .. => ⟨0xFC0007FE, 0x4C00012C⟩
  | .crxor .. => ⟨0xFC0007FE, 0x4C000182⟩
  | .crnand .. => ⟨0xFC0007FE, 0x4C0001C2⟩
  | .crand .. => ⟨0xFC0007FE, 0x4C000202⟩
  | .creqv .. => ⟨0xFC0007FE, 0x4C000242⟩
  | .crorc .. => ⟨0xFC0007FE, 0x4C000342⟩
  | .cror .. => ⟨0xFC0007FE, 0x4C000382⟩
  | .bcctr .. => ⟨0xFC0007FE, 0x4C000420⟩
  | .rlwimi .. => ⟨0xFC000000, 0x50000000⟩
  | .rlwinm .. => ⟨0xFC000000, 0x54000000⟩
  | .rlwnm .. => ⟨0xFC000000, 0x5C000000⟩
  | .ori .. => ⟨0xFC000000, 0x60000000⟩
  | .oris .. => ⟨0xFC000000, 0x64000000⟩
  | .xori .. => ⟨0xFC000000, 0x68000000⟩
  | .xoris .. => ⟨0xFC000000, 0x6C000000⟩
  | .andiDot .. => ⟨0xFC000000, 0x70000000⟩
  | .andisDot .. => ⟨0xFC000000, 0x74000000⟩
  | .cmp .. => ⟨0xFC0007FE, 0x7C000000⟩
  | .tw .. => ⟨0xFC0007FE, 0x7C000008⟩
  | .subfc .. => ⟨0xFC0003FE, 0x7C000010⟩
  | .addc .. => ⟨0xFC0003FE, 0x7C000014⟩
  | .mulhwu .. => ⟨0xFC0007FE, 0x7C000016⟩
  | .mfcr .. => ⟨0xFC0007FE, 0x7C000026⟩
  | .lwarx .. => ⟨0xFC0007FE, 0x7C000028⟩
  | .lwzx .. => ⟨0xFC0007FE, 0x7C00002E⟩
  | .slw .. => ⟨0xFC0007FE, 0x7C000030⟩
  | .cntlzw .. => ⟨0xFC0007FE, 0x7C000034⟩
  | .and .. => ⟨0xFC0007FE, 0x7C000038⟩
  | .cmpl .. => ⟨0xFC0007FE, 0x7C000040⟩
  | .subf .. => ⟨0xFC0003FE, 0x7C000050⟩
  | .dcbst .. => ⟨0xFC0007FE, 0x7C00006C⟩
  | .lwzux .. => ⟨0xFC0007FE, 0x7C00006E⟩
  | .andc .. => ⟨0xFC0007FE, 0x7C000078⟩
  | .mulhw .. => ⟨0xFC0007FE, 0x7C000096⟩
  | .mfmsr .. => ⟨0xFC0007FE, 0x7C0000A6⟩
  | .dcbf .. => ⟨0xFC0007FE, 0x7C0000AC⟩
  | .lbzx .. => ⟨0xFC0007FE, 0x7C0000AE⟩
  | .neg .. => ⟨0xFC0003FE, 0x7C0000D0⟩
  | .lbzux .. => ⟨0xFC0007FE, 0x7C0000EE⟩
  | .nor .. => ⟨0xFC0007FE, 0x7C0000F8⟩
  | .subfe .. => ⟨0xFC0003FE, 0x7C000110⟩
  | .adde .. => ⟨0xFC0003FE, 0x7C000114⟩
  | .mtcrf .. => ⟨0xFC0007FE, 0x7C000120⟩
  | .mtmsr .. => ⟨0xFC0007FE, 0x7C000124⟩
  | .stwcxDot .. => ⟨0xFC0007FE, 0x7C00012C⟩
  | .stwx .. => ⟨0xFC0007FE, 0x7C00012E⟩
  | .stwux .. => ⟨0xFC0007FE, 0x7C00016E⟩
  | .subfze .. => ⟨0xFC0003FE, 0x7C000190⟩
  | .addze .. => ⟨0xFC0003FE, 0x7C000194⟩
  | .mtsr .. => ⟨0xFC0007FE, 0x7C0001A4⟩
  | .stbx .. => ⟨0xFC0007FE, 0x7C0001AE⟩
  | .subfme .. => ⟨0xFC0003FE, 0x7C0001D0⟩
  | .addme .. => ⟨0xFC0003FE, 0x7C0001D4⟩
  | .mullw .. => ⟨0xFC0003FE, 0x7C0001D6⟩
  | .mtsrin .. => ⟨0xFC0007FE, 0x7C0001E4⟩
  | .dcbtst .. => ⟨0xFC0007FE, 0x7C0001EC⟩
  | .stbux .. => ⟨0xFC0007FE, 0x7C0001EE⟩
  | .add .. => ⟨0xFC0003FE, 0x7C000214⟩
  | .dcbt .. => ⟨0xFC0007FE, 0x7C00022C⟩
  | .lhzx .. => ⟨0xFC0007FE, 0x7C00022E⟩
  | .eqv .. => ⟨0xFC0007FE, 0x7C000238⟩
  | .tlbie .. => ⟨0xFC0007FE, 0x7C000264⟩
  | .lhzux .. => ⟨0xFC0007FE, 0x7C00026E⟩
  | .xor .. => ⟨0xFC0007FE, 0x7C000278⟩
  | .mfspr .. => ⟨0xFC0007FE, 0x7C0002A6⟩
  | .lhax .. => ⟨0xFC0007FE, 0x7C0002AE⟩
  | .mftb .. => ⟨0xFC0007FE, 0x7C0002E6⟩
  | .lhaux .. => ⟨0xFC0007FE, 0x7C0002EE⟩
  | .sthx .. => ⟨0xFC0007FE, 0x7C00032E⟩
  | .orc .. => ⟨0xFC0007FE, 0x7C000338⟩
  | .sthux .. => ⟨0xFC0007FE, 0x7C00036E⟩
  | .or .. => ⟨0xFC0007FE, 0x7C000378⟩
  | .divwu .. => ⟨0xFC0003FE, 0x7C000396⟩
  | .mtspr .. => ⟨0xFC0007FE, 0x7C0003A6⟩
  | .dcbi .. => ⟨0xFC0007FE, 0x7C0003AC⟩
  | .nand .. => ⟨0xFC0007FE, 0x7C0003B8⟩
  | .divw .. => ⟨0xFC0003FE, 0x7C0003D6⟩
  | .mcrxr .. => ⟨0xFC0007FE, 0x7C000400⟩
  | .lswx .. => ⟨0xFC0007FE, 0x7C00042A⟩
  | .lwbrx .. => ⟨0xFC0007FE, 0x7C00042C⟩
  | .lfsx .. => ⟨0xFC0007FE, 0x7C00042E⟩
  | .srw .. => ⟨0xFC0007FE, 0x7C000430⟩
  | .tlbsync .. => ⟨0xFC0007FE, 0x7C00046C⟩
  | .lfsux .. => ⟨0xFC0007FE, 0x7C00046E⟩
  | .mfsr .. => ⟨0xFC0007FE, 0x7C0004A6⟩
  | .lswi .. => ⟨0xFC0007FE, 0x7C0004AA⟩
  | .sync .. => ⟨0xFC0007FE, 0x7C0004AC⟩
  | .lfdx .. => ⟨0xFC0007FE, 0x7C0004AE⟩
  | .lfdux .. => ⟨0xFC0007FE, 0x7C0004EE⟩
  | .mfsrin .. => ⟨0xFC0007FE, 0x7C000526⟩
  | .stswx .. => ⟨0xFC0007FE, 0x7C00052A⟩
  | .stwbrx .. => ⟨0xFC0007FE, 0x7C00052C⟩
  | .stfsx .. => ⟨0xFC0007FE, 0x7C00052E⟩
  | .stfsux .. => ⟨0xFC0007FE, 0x7C00056E⟩
  | .stswi .. => ⟨0xFC0007FE, 0x7C0005AA⟩
  | .stfdx .. => ⟨0xFC0007FE, 0x7C0005AE⟩
  | .stfdux .. => ⟨0xFC0007FE, 0x7C0005EE⟩
  | .lhbrx .. => ⟨0xFC0007FE, 0x7C00062C⟩
  | .sraw .. => ⟨0xFC0007FE, 0x7C000630⟩
  | .srawi .. => ⟨0xFC0007FE, 0x7C000670⟩
  | .eieio .. => ⟨0xFC0007FE, 0x7C0006AC⟩
  | .sthbrx .. => ⟨0xFC0007FE, 0x7C00072C⟩
  | .extsh .. => ⟨0xFC0007FE, 0x7C000734⟩
  | .extsb .. => ⟨0xFC0007FE, 0x7C000774⟩
  | .icbi .. => ⟨0xFC0007FE, 0x7C0007AC⟩
  | .stfiwx .. => ⟨0xFC0007FE, 0x7C0007AE⟩
  | .dcbz .. => ⟨0xFC0007FE, 0x7C0007EC⟩
  | .lwz .. => ⟨0xFC000000, 0x80000000⟩
  | .lwzu .. => ⟨0xFC000000, 0x84000000⟩
  | .lbz .. => ⟨0xFC000000, 0x88000000⟩
  | .lbzu .. => ⟨0xFC000000, 0x8C000000⟩
  | .stw .. => ⟨0xFC000000, 0x90000000⟩
  | .stwu .. => ⟨0xFC000000, 0x94000000⟩
  | .stb .. => ⟨0xFC000000, 0x98000000⟩
  | .stbu .. => ⟨0xFC000000, 0x9C000000⟩
  | .lhz .. => ⟨0xFC000000, 0xA0000000⟩
  | .lhzu .. => ⟨0xFC000000, 0xA4000000⟩
  | .lha .. => ⟨0xFC000000, 0xA8000000⟩
  | .lhau .. => ⟨0xFC000000, 0xAC000000⟩
  | .sth .. => ⟨0xFC000000, 0xB0000000⟩
  | .sthu .. => ⟨0xFC000000, 0xB4000000⟩
  | .lmw .. => ⟨0xFC000000, 0xB8000000⟩
  | .stmw .. => ⟨0xFC000000, 0xBC000000⟩
  | .lfs .. => ⟨0xFC000000, 0xC0000000⟩
  | .lfsu .. => ⟨0xFC000000, 0xC4000000⟩
  | .lfd .. => ⟨0xFC000000, 0xC8000000⟩
  | .lfdu .. => ⟨0xFC000000, 0xCC000000⟩
  | .stfs .. => ⟨0xFC000000, 0xD0000000⟩
  | .stfsu .. => ⟨0xFC000000, 0xD4000000⟩
  | .stfd .. => ⟨0xFC000000, 0xD8000000⟩
  | .stfdu .. => ⟨0xFC000000, 0xDC000000⟩
  | .fdivs .. => ⟨0xFC00003E, 0xEC000024⟩
  | .fsubs .. => ⟨0xFC00003E, 0xEC000028⟩
  | .fadds .. => ⟨0xFC00003E, 0xEC00002A⟩
  | .fres .. => ⟨0xFC00003E, 0xEC000030⟩
  | .fmuls .. => ⟨0xFC00003E, 0xEC000032⟩
  | .fmsubs .. => ⟨0xFC00003E, 0xEC000038⟩
  | .fmadds .. => ⟨0xFC00003E, 0xEC00003A⟩
  | .fnmsubs .. => ⟨0xFC00003E, 0xEC00003C⟩
  | .fnmadds .. => ⟨0xFC00003E, 0xEC00003E⟩
  | .fdiv .. => ⟨0xFC00003E, 0xFC000024⟩
  | .fsub .. => ⟨0xFC00003E, 0xFC000028⟩
  | .fadd .. => ⟨0xFC00003E, 0xFC00002A⟩
  | .fmul .. => ⟨0xFC00003E, 0xFC000032⟩
  | .frsqrte .. => ⟨0xFC00003E, 0xFC000034⟩
  | .fmsub .. => ⟨0xFC00003E, 0xFC000038⟩
  | .fmadd .. => ⟨0xFC00003E, 0xFC00003A⟩
  | .fnmsub .. => ⟨0xFC00003E, 0xFC00003C⟩
  | .fnmadd .. => ⟨0xFC00003E, 0xFC00003E⟩
  | .fcmpu .. => ⟨0xFC0007FE, 0xFC000000⟩
  | .frsp .. => ⟨0xFC0007FE, 0xFC000018⟩
  | .fctiw .. => ⟨0xFC0007FE, 0xFC00001C⟩
  | .fctiwz .. => ⟨0xFC0007FE, 0xFC00001E⟩
  | .fcmpo .. => ⟨0xFC0007FE, 0xFC000040⟩
  | .mtfsb1 .. => ⟨0xFC0007FE, 0xFC00004C⟩
  | .fneg .. => ⟨0xFC0007FE, 0xFC000050⟩
  | .mcrfs .. => ⟨0xFC0007FE, 0xFC000080⟩
  | .mtfsb0 .. => ⟨0xFC0007FE, 0xFC00008C⟩
  | .fmr .. => ⟨0xFC0007FE, 0xFC000090⟩
  | .mtfsfi .. => ⟨0xFC0007FE, 0xFC00010C⟩
  | .fnabs .. => ⟨0xFC0007FE, 0xFC000110⟩
  | .fabs .. => ⟨0xFC0007FE, 0xFC000210⟩
  | .mffs .. => ⟨0xFC0007FE, 0xFC00048E⟩
  | .mtfsf .. => ⟨0xFC0007FE, 0xFC00058E⟩

/-- Rows 1 to 30 of the table. -/
def opcodeRows0 : List OpcodeRow :=
  [⟨0xFC000000, 0x0C000000⟩, ⟨0xFC000000, 0x1C000000⟩, ⟨0xFC000000, 0x20000000⟩, ⟨0xFC000000, 0x28000000⟩,
   ⟨0xFC000000, 0x2C000000⟩, ⟨0xFC000000, 0x30000000⟩, ⟨0xFC000000, 0x34000000⟩, ⟨0xFC000000, 0x38000000⟩,
   ⟨0xFC000000, 0x3C000000⟩, ⟨0xFC000000, 0x40000000⟩, ⟨0xFC000000, 0x44000000⟩, ⟨0xFC000000, 0x48000000⟩,
   ⟨0xFC0007FE, 0x4C000000⟩, ⟨0xFC0007FE, 0x4C000020⟩, ⟨0xFC0007FE, 0x4C000042⟩, ⟨0xFC0007FE, 0x4C000064⟩,
   ⟨0xFC0007FE, 0x4C000102⟩, ⟨0xFC0007FE, 0x4C00012C⟩, ⟨0xFC0007FE, 0x4C000182⟩, ⟨0xFC0007FE, 0x4C0001C2⟩,
   ⟨0xFC0007FE, 0x4C000202⟩, ⟨0xFC0007FE, 0x4C000242⟩, ⟨0xFC0007FE, 0x4C000342⟩, ⟨0xFC0007FE, 0x4C000382⟩,
   ⟨0xFC0007FE, 0x4C000420⟩, ⟨0xFC000000, 0x50000000⟩, ⟨0xFC000000, 0x54000000⟩, ⟨0xFC000000, 0x5C000000⟩,
   ⟨0xFC000000, 0x60000000⟩, ⟨0xFC000000, 0x64000000⟩]

/-- Rows 31 to 60 of the table. -/
def opcodeRows1 : List OpcodeRow :=
  [⟨0xFC000000, 0x68000000⟩, ⟨0xFC000000, 0x6C000000⟩, ⟨0xFC000000, 0x70000000⟩, ⟨0xFC000000, 0x74000000⟩,
   ⟨0xFC0007FE, 0x7C000000⟩, ⟨0xFC0007FE, 0x7C000008⟩, ⟨0xFC0003FE, 0x7C000010⟩, ⟨0xFC0003FE, 0x7C000014⟩,
   ⟨0xFC0007FE, 0x7C000016⟩, ⟨0xFC0007FE, 0x7C000026⟩, ⟨0xFC0007FE, 0x7C000028⟩, ⟨0xFC0007FE, 0x7C00002E⟩,
   ⟨0xFC0007FE, 0x7C000030⟩, ⟨0xFC0007FE, 0x7C000034⟩, ⟨0xFC0007FE, 0x7C000038⟩, ⟨0xFC0007FE, 0x7C000040⟩,
   ⟨0xFC0003FE, 0x7C000050⟩, ⟨0xFC0007FE, 0x7C00006C⟩, ⟨0xFC0007FE, 0x7C00006E⟩, ⟨0xFC0007FE, 0x7C000078⟩,
   ⟨0xFC0007FE, 0x7C000096⟩, ⟨0xFC0007FE, 0x7C0000A6⟩, ⟨0xFC0007FE, 0x7C0000AC⟩, ⟨0xFC0007FE, 0x7C0000AE⟩,
   ⟨0xFC0003FE, 0x7C0000D0⟩, ⟨0xFC0007FE, 0x7C0000EE⟩, ⟨0xFC0007FE, 0x7C0000F8⟩, ⟨0xFC0003FE, 0x7C000110⟩,
   ⟨0xFC0003FE, 0x7C000114⟩, ⟨0xFC0007FE, 0x7C000120⟩]

/-- Rows 61 to 90 of the table. -/
def opcodeRows2 : List OpcodeRow :=
  [⟨0xFC0007FE, 0x7C000124⟩, ⟨0xFC0007FE, 0x7C00012C⟩, ⟨0xFC0007FE, 0x7C00012E⟩, ⟨0xFC0007FE, 0x7C00016E⟩,
   ⟨0xFC0003FE, 0x7C000190⟩, ⟨0xFC0003FE, 0x7C000194⟩, ⟨0xFC0007FE, 0x7C0001A4⟩, ⟨0xFC0007FE, 0x7C0001AE⟩,
   ⟨0xFC0003FE, 0x7C0001D0⟩, ⟨0xFC0003FE, 0x7C0001D4⟩, ⟨0xFC0003FE, 0x7C0001D6⟩, ⟨0xFC0007FE, 0x7C0001E4⟩,
   ⟨0xFC0007FE, 0x7C0001EC⟩, ⟨0xFC0007FE, 0x7C0001EE⟩, ⟨0xFC0003FE, 0x7C000214⟩, ⟨0xFC0007FE, 0x7C00022C⟩,
   ⟨0xFC0007FE, 0x7C00022E⟩, ⟨0xFC0007FE, 0x7C000238⟩, ⟨0xFC0007FE, 0x7C000264⟩, ⟨0xFC0007FE, 0x7C00026E⟩,
   ⟨0xFC0007FE, 0x7C000278⟩, ⟨0xFC0007FE, 0x7C0002A6⟩, ⟨0xFC0007FE, 0x7C0002AE⟩, ⟨0xFC0007FE, 0x7C0002E6⟩,
   ⟨0xFC0007FE, 0x7C0002EE⟩, ⟨0xFC0007FE, 0x7C00032E⟩, ⟨0xFC0007FE, 0x7C000338⟩, ⟨0xFC0007FE, 0x7C00036E⟩,
   ⟨0xFC0007FE, 0x7C000378⟩, ⟨0xFC0003FE, 0x7C000396⟩]

/-- Rows 91 to 120 of the table. -/
def opcodeRows3 : List OpcodeRow :=
  [⟨0xFC0007FE, 0x7C0003A6⟩, ⟨0xFC0007FE, 0x7C0003AC⟩, ⟨0xFC0007FE, 0x7C0003B8⟩, ⟨0xFC0003FE, 0x7C0003D6⟩,
   ⟨0xFC0007FE, 0x7C000400⟩, ⟨0xFC0007FE, 0x7C00042A⟩, ⟨0xFC0007FE, 0x7C00042C⟩, ⟨0xFC0007FE, 0x7C00042E⟩,
   ⟨0xFC0007FE, 0x7C000430⟩, ⟨0xFC0007FE, 0x7C00046C⟩, ⟨0xFC0007FE, 0x7C00046E⟩, ⟨0xFC0007FE, 0x7C0004A6⟩,
   ⟨0xFC0007FE, 0x7C0004AA⟩, ⟨0xFC0007FE, 0x7C0004AC⟩, ⟨0xFC0007FE, 0x7C0004AE⟩, ⟨0xFC0007FE, 0x7C0004EE⟩,
   ⟨0xFC0007FE, 0x7C000526⟩, ⟨0xFC0007FE, 0x7C00052A⟩, ⟨0xFC0007FE, 0x7C00052C⟩, ⟨0xFC0007FE, 0x7C00052E⟩,
   ⟨0xFC0007FE, 0x7C00056E⟩, ⟨0xFC0007FE, 0x7C0005AA⟩, ⟨0xFC0007FE, 0x7C0005AE⟩, ⟨0xFC0007FE, 0x7C0005EE⟩,
   ⟨0xFC0007FE, 0x7C00062C⟩, ⟨0xFC0007FE, 0x7C000630⟩, ⟨0xFC0007FE, 0x7C000670⟩, ⟨0xFC0007FE, 0x7C0006AC⟩,
   ⟨0xFC0007FE, 0x7C00072C⟩, ⟨0xFC0007FE, 0x7C000734⟩]

/-- Rows 121 to 150 of the table. -/
def opcodeRows4 : List OpcodeRow :=
  [⟨0xFC0007FE, 0x7C000774⟩, ⟨0xFC0007FE, 0x7C0007AC⟩, ⟨0xFC0007FE, 0x7C0007AE⟩, ⟨0xFC0007FE, 0x7C0007EC⟩,
   ⟨0xFC000000, 0x80000000⟩, ⟨0xFC000000, 0x84000000⟩, ⟨0xFC000000, 0x88000000⟩, ⟨0xFC000000, 0x8C000000⟩,
   ⟨0xFC000000, 0x90000000⟩, ⟨0xFC000000, 0x94000000⟩, ⟨0xFC000000, 0x98000000⟩, ⟨0xFC000000, 0x9C000000⟩,
   ⟨0xFC000000, 0xA0000000⟩, ⟨0xFC000000, 0xA4000000⟩, ⟨0xFC000000, 0xA8000000⟩, ⟨0xFC000000, 0xAC000000⟩,
   ⟨0xFC000000, 0xB0000000⟩, ⟨0xFC000000, 0xB4000000⟩, ⟨0xFC000000, 0xB8000000⟩, ⟨0xFC000000, 0xBC000000⟩,
   ⟨0xFC000000, 0xC0000000⟩, ⟨0xFC000000, 0xC4000000⟩, ⟨0xFC000000, 0xC8000000⟩, ⟨0xFC000000, 0xCC000000⟩,
   ⟨0xFC000000, 0xD0000000⟩, ⟨0xFC000000, 0xD4000000⟩, ⟨0xFC000000, 0xD8000000⟩, ⟨0xFC000000, 0xDC000000⟩,
   ⟨0xFC00003E, 0xEC000024⟩, ⟨0xFC00003E, 0xEC000028⟩]

/-- Rows 151 to 180 of the table. -/
def opcodeRows5 : List OpcodeRow :=
  [⟨0xFC00003E, 0xEC00002A⟩, ⟨0xFC00003E, 0xEC000030⟩, ⟨0xFC00003E, 0xEC000032⟩, ⟨0xFC00003E, 0xEC000038⟩,
   ⟨0xFC00003E, 0xEC00003A⟩, ⟨0xFC00003E, 0xEC00003C⟩, ⟨0xFC00003E, 0xEC00003E⟩, ⟨0xFC00003E, 0xFC000024⟩,
   ⟨0xFC00003E, 0xFC000028⟩, ⟨0xFC00003E, 0xFC00002A⟩, ⟨0xFC00003E, 0xFC000032⟩, ⟨0xFC00003E, 0xFC000034⟩,
   ⟨0xFC00003E, 0xFC000038⟩, ⟨0xFC00003E, 0xFC00003A⟩, ⟨0xFC00003E, 0xFC00003C⟩, ⟨0xFC00003E, 0xFC00003E⟩,
   ⟨0xFC0007FE, 0xFC000000⟩, ⟨0xFC0007FE, 0xFC000018⟩, ⟨0xFC0007FE, 0xFC00001C⟩, ⟨0xFC0007FE, 0xFC00001E⟩,
   ⟨0xFC0007FE, 0xFC000040⟩, ⟨0xFC0007FE, 0xFC00004C⟩, ⟨0xFC0007FE, 0xFC000050⟩, ⟨0xFC0007FE, 0xFC000080⟩,
   ⟨0xFC0007FE, 0xFC00008C⟩, ⟨0xFC0007FE, 0xFC000090⟩, ⟨0xFC0007FE, 0xFC00010C⟩, ⟨0xFC0007FE, 0xFC000110⟩,
   ⟨0xFC0007FE, 0xFC000210⟩, ⟨0xFC0007FE, 0xFC00048E⟩]

/-- Rows 181 to 181 of the table. -/
def opcodeRows6 : List OpcodeRow :=
  [⟨0xFC0007FE, 0xFC00058E⟩]

/-- All 181 rows of spec/opcode_table.json, in its order. -/
def opcodeRows : List OpcodeRow :=
  opcodeRows0 ++ opcodeRows1 ++ opcodeRows2 ++ opcodeRows3 ++ opcodeRows4 ++ opcodeRows5 ++ opcodeRows6

end Sys2Proof
end

