-- ==== Sys2Proof/Config.lean ====
section
/-! DEFINITION. The open parameters of 00_scope.md R6 and the free values. A parameter that the host or the implementation fixes
is a field of `Params`, which State carries, so that a statement about every state is a statement about every choice; the free
values are constants without a body. -/

namespace Sys2Proof

/-- Which function an estimate instruction uses (45_floating_point_arithmetic.md R369, R370; P8, P9). -/
inductive Estimate where
  /-- The spec's default: the correctly rounded value. -/
  | correctlyRounded
  /-- Some implementation's function, an opaque constant, used where it stays within the error the rule allows. -/
  | implementation
deriving DecidableEq, Repr

/-- The open parameters of R6 that are data. Each field's default is the value R6 recommends. -/
structure Params where
  /-- P5 HALT_ON_INVALID: the Driver stops after an invalid-instruction report (40_dispatcher.md R139). -/
  haltOnInvalid : Bool := false
  /-- P6 FP_RECORD_FIELD: the CR field a floating-point record form writes, 0 or 1 (R350). -/
  fpRecordField : Fin 2 := 1
  /-- P7 FP_HIGH_WORD: the upper word `fctiw`, `fctiwz` and `mffs` deliver (R372, R380). -/
  fpHighWord : Word := 0xFFF80000
  /-- P8 FRES_EST (R369). -/
  fresMode : Estimate := .correctlyRounded
  /-- P9 FRSQRTE_EST (R370). -/
  frsqrteMode : Estimate := .correctlyRounded
  /-- P10 CACHE_BLOCK_BYTES is four bytes times two to this number (R500); 3 gives 32 bytes. -/
  cacheBlockShift : Fin 30 := 3
deriving DecidableEq, Repr

/-- P4 TB_TICK (R34, R144): how much the time base advances at its n-th tick. A free value: any non-negative amount. -/
opaque Config.tbTick : Nat → DWord

/-- P8 for `Estimate.implementation`: the reciprocal estimate of an operand's bits and FPSCR[RN] (R369). A free value. -/
opaque Config.fresEst : DWord → BitVec 2 → DWord

/-- P9 for `Estimate.implementation`: the reciprocal square root estimate of an operand's bits (R370). A free value. -/
opaque Config.frsqrteEst : DWord → DWord

/-- What a byte of the image that nothing has written reads as. DESIGN CHOICE, unsafe: the spec leaves the port's answers to the
port (20_memory.md R74); log 7. -/
def Config.unlistedByte : Byte := 0

end Sys2Proof
end

