-- ==== Sys2Proof/Machine/State.lean ====
section
/-! DEFINITION. The state of the core (10_state.md R20 to R39), of the Memory Port it consumes (20_memory.md R60), the
parameters, and the model's own bookkeeping, as plain data; the reasons a model step can stop; the state after construction.
What reads and writes it is in Ops.lean. -/

namespace Sys2Proof.Machine

/-- The width of one port access (R60). -/
inductive Width where
  | byte
  | half
  | word
  | double
deriving DecidableEq, Repr

/-- The direction of a port call. -/
inductive Rw where
  | read
  | write
deriving DecidableEq, Repr

/-- What a misaligned address was for (R67). -/
inductive AccessKind where
  | fetch
  | data
deriving DecidableEq, Repr

/-- The symbolic tag of an invalid-instruction report (40_dispatcher.md R137); `Tag.name` gives its spelling. -/
inductive Tag where
  | unknown
  | unknown19
  | unknown31
  | unknown59
  | unknown63
  | lwarx
  | stwcxDot
  | mfsr
  | mfsrin
  | mtsr
  | mtsrin
  | tlbie
  | tlbsync
  | tw
  | twi
  | mtspr
  | mfspr
  | mftb
deriving DecidableEq, Repr

/-- The triple of an invalid-instruction report (R38, R141). -/
structure Diagnostic where
  tag : Tag
  pc : Word
  word : Word
deriving DecidableEq, Repr

/-- The outcome of a step (60_exceptions.md R540). -/
inductive StepOutcome where
  | ok
  | memoryFailure (rw : Rw) (addr : Word) (width : Width)
  | invalid (d : Diagnostic)
  | alignment (kind : AccessKind) (addr : Word) (width : Width)
deriving DecidableEq, Repr

/-- A range of addresses the port answers, `size` bytes from `base` (R72: which addresses exist is the port's answer). -/
structure PortRange where
  base : Nat
  size : Nat
  readable : Bool := true
  writable : Bool := true
deriving DecidableEq, Repr

/-- The Memory Port as far as it is not the image itself: whether it is hooked (R60, R79) and what it answers. -/
structure Port where
  hooked : Bool
  ranges : List PortRange
deriving DecidableEq, Repr

/-- What others do to the port before one of the core's calls: bytes another process writes, and a change of the connection or of
the ranges (20_memory.md R74; 70_reset_and_hazards.md R592 (c)). -/
structure Interference where
  writes : List (Word × Byte) := []
  port : Option Port := none
deriving DecidableEq, Repr

/-- The image behind the port: listed bytes by address, every other byte reading `Config.unlistedByte`. -/
abbrev Memory := List Host.Cell

/-- The cells of the SPR file by id, every other cell reading 0 (R31). -/
abbrev SprFile := List (Nat × Word)

/-- The machine. The first fifteen fields are the register file of R20 and the sequencer state of R38, R39; `mem`, `port` and
`traffic` are the environment (R40, R60, R74); `params` are the open parameters (R6); the last three are the model's own. -/
structure State where
  /-- GPR[0..31] (R21). -/
  gprs : Vector Word 32
  /-- FPR[0..31] (R35). -/
  fprs : Vector DWord 32
  /-- CR (R24). -/
  cr : Word
  /-- LR (R28). -/
  lr : Word
  /-- CTR (R28). -/
  ctr : Word
  /-- PC, the address of the next instruction between steps and CIA within one (R22). -/
  pc : Word
  /-- XER (R26). -/
  xer : Word
  /-- MSR (R29). -/
  msr : Word
  /-- SRR0 (R30). -/
  srr0 : Word
  /-- SRR1 (R30). -/
  srr1 : Word
  /-- The cells of the SPR file (R31); the aliased and the time-base ids have none here. -/
  sprs : SprFile
  /-- The time base (R34). -/
  tb : DWord
  /-- FPSCR (R36). -/
  fpscr : Word
  /-- last_invalid (R38). -/
  lastInvalid : Option Diagnostic
  /-- The keep-running flag (R39). -/
  running : Bool
  /-- The image behind the port (R40, R74). -/
  mem : Memory
  /-- The port (R60). -/
  port : Port
  /-- What others do to the port before each of the core's coming calls, the next one first; past the end of the list, nothing
  (R74, R592; log 6). Over all states this is every way another process can come between two calls. -/
  traffic : List Interference
  /-- The open parameters (R6). -/
  params : Params
  /-- The model's own: how many ticks the time base has had; `Config.tbTick` is applied to it. -/
  tickCount : Nat
  /-- The model's own: the outcome of the last step (R130), none before the first. -/
  outcome : Option StepOutcome
  /-- The model's own: the diagnostic events emitted (R141), oldest first. -/
  events : List Diagnostic
deriving DecidableEq, Repr

/-- Why a model step gives no next state. The spec's three failures are not among these: they are outcomes of a step that has a
next state (R540). -/
inductive Fault where
  /-- Raised by the Driver's turn when `running` is false: the loop is stopped and takes no step (R138). Safe: the spec gives
  this turn no effect, and the host resumes the machine by a move of its own. -/
  | loopStopped
deriving DecidableEq, Repr

/-- Why the model has no meaning for something. -/
inductive Refusal where
  /-- Raised by an arm of `exec` whose instruction has no meaning yet. No arm raises it. Safe. -/
  | notModelled (mnemonic : String)
deriving DecidableEq, Repr

/-- What a meaning and a step answer. -/
abbrev Result := Host.Outcome State Fault Refusal

/-- The one range of the port at construction: the whole address space (log 8). -/
def PortRange.whole : PortRange := { base := 0, size := 4294967296 }

/-- The machine as the host constructs it (R44, R580): every register at the default of INIT_STATE, PC at 0 (R581; log 5), the
loop not running, the port hooked and answering everywhere over an unwritten image that no other process touches (logs 6 to 8). -/
def State.reset : State where
  gprs := Vector.replicate 32 0
  fprs := Vector.replicate 32 0
  cr := 0
  lr := 0
  ctr := 0
  pc := 0
  xer := 0
  msr := 0
  srr0 := 0
  srr1 := 0
  sprs := []
  tb := 0
  fpscr := 0
  lastInvalid := none
  running := false
  mem := []
  port := { hooked := true, ranges := [PortRange.whole] }
  traffic := []
  params := {}
  tickCount := 0
  outcome := none
  events := []

end Sys2Proof.Machine
end

