-- ==== Sys2Proof/Machine/Ops.lean ====
section
/-! DEFINITION. The named operations over registers, the image and the port: the only code that reads or writes a part of State.
Addresses of the image are natural numbers, reached from a computed 32-bit address by `toNat`. -/

namespace Sys2Proof.Machine

/-! ## Sparse maps: the image and the SPR file -/

/-- The value a sparse map holds at a key; a key that is not listed holds `d`. -/
def sparseGet {β : Type} (d : β) : List (Nat × β) → Nat → β
  | [], _ => d
  | (k, v) :: l, a => if k = a then v else sparseGet d l a

/-- The map without its entry for a key. -/
def sparseErase {β : Type} : List (Nat × β) → Nat → List (Nat × β)
  | [], _ => []
  | (k, v) :: l, a => if k = a then sparseErase l a else (k, v) :: sparseErase l a

/-- The map with an entry put before the first entry of a greater key. -/
def sparseInsert {β : Type} (a : Nat) (b : β) : List (Nat × β) → List (Nat × β)
  | [] => [(a, b)]
  | (k, v) :: l => if a < k then (a, b) :: (k, v) :: l else (k, v) :: sparseInsert a b l

/-- The map after a write. Writing the value an unlisted key holds removes the entry, so equal maps are equal lists. -/
def sparseSet {β : Type} [DecidableEq β] (d : β) (l : List (Nat × β)) (a : Nat) (b : β) : List (Nat × β) :=
  if b = d then sparseErase l a else sparseInsert a b (sparseErase l a)

/-- The canonical form: keys strictly rising and below `bound`, no entry equal to what an unlisted key holds. -/
abbrev sparseWf {β : Type} [DecidableEq β] (d : β) (bound : Nat) (l : List (Nat × β)) : Prop :=
  l.Pairwise (fun x y => x.1 < y.1) ∧ ∀ c ∈ l, c.1 < bound ∧ c.2 ≠ d

/-! ## The image: bytes, and big-endian values of several bytes (20_memory.md R62) -/

/-- One byte of the image. -/
def readByte (m : Memory) (a : Nat) : Byte := sparseGet Config.unlistedByte m a

/-- The image with one byte replaced. -/
def writeByte (m : Memory) (a : Nat) (b : Byte) : Memory := sparseSet Config.unlistedByte m a b

/-- The canonical form of the image, over the 32-bit address space. -/
abbrev Memory.wf (m : Memory) : Prop := sparseWf Config.unlistedByte 4294967296 m

/-- `n` bytes from `a` as an unsigned value, the lowest address most significant (R62). -/
def readBytes (m : Memory) (a : Nat) : Nat → DWord
  | 0 => 0
  | n + 1 => (readBytes m a n <<< 8) ||| (readByte m (a + n)).setWidth 64

/-- The image with the low `n` bytes of `v` at `a`, the most significant of them at the lowest address (R62). -/
def writeBytes (m : Memory) (a : Nat) : Nat → DWord → Memory
  | 0, _ => m
  | n + 1, v => writeBytes (writeByte m (a + n) (v.setWidth 8)) a n (v >>> 8)

/-! ## The Memory Port (R60 to R69) -/

/-- The bytes of an access width (R60). -/
def Width.bytes : Width → Nat
  | .byte => 1
  | .half => 2
  | .word => 4
  | .double => 8

/-- Whether a range lets a call of this direction through. -/
def PortRange.permits (r : PortRange) : Rw → Bool
  | .read => r.readable
  | .write => r.writable

/-- Whether the port answers a call of `n` bytes at `a`: it is hooked, and one of its ranges permits the call and holds all of the
bytes. Otherwise it answers Error (R60, R68, R72). DESIGN CHOICE: a port that is not hooked answers no call, in the loop and in a
host single step alike; the spec names a disconnected target as a cause of Error and does not tie it to isConnected (log 9). -/
def Port.answers (p : Port) (rw : Rw) (a n : Nat) : Bool :=
  p.hooked && p.ranges.any fun r => r.permits rw && decide (r.base ≤ a) && decide (a + n ≤ r.base + r.size)

/-- R66: an access of `n` bytes needs an address that is a multiple of `n`. -/
def aligned (a : Word) (w : Width) : Bool := decide (a.toNat % w.bytes = 0)

/-- The state a call of the port meets: what others do before it has happened (R74, R592 (c)). No register is touched. -/
def State.atCall (s : State) : State :=
  match s.traffic with
  | [] => s
  | e :: rest =>
    { s with
      mem := e.writes.foldl (fun m c => writeByte m c.1.toNat c.2) s.mem
      port := e.port.getD s.port
      traffic := rest }

/-- The state `n` calls of the port meet one after another, where the core itself writes nothing. -/
def State.afterCalls (s : State) : Nat → State
  | 0 => s
  | n + 1 => (s.afterCalls n).atCall

/-- MemRead (R63): the alignment, then one port read (R66 to R68; 60_exceptions.md R547). The state is the one the call left. -/
def State.memRead (s : State) (a : Word) (w : Width) : State × Except StepOutcome DWord :=
  if aligned a w = false then (s, .error (.alignment .data a w))
  else if s.atCall.port.answers .read a.toNat w.bytes = false then (s.atCall, .error (.memoryFailure .read a w))
  else (s.atCall, .ok (readBytes s.atCall.mem a.toNat w.bytes))

/-- The image with a value written, nothing else changed. -/
def State.putBytes (s : State) (a : Word) (w : Width) (v : DWord) : State :=
  { s with mem := writeBytes s.mem a.toNat w.bytes v }

/-- MemWrite (R64): the alignment, then one port write of the low bytes of `v`. -/
def State.memWrite (s : State) (a : Word) (w : Width) (v : DWord) : State × Option StepOutcome :=
  if aligned a w = false then (s, some (.alignment .data a w))
  else if s.atCall.port.answers .write a.toNat w.bytes = false then (s.atCall, some (.memoryFailure .write a w))
  else (s.atCall.putBytes a w v, none)

/-- Port reads one after another, in the order given; the first failure ends them (R69). -/
def State.readSeq (w : Width) : List Word → State → State × Except StepOutcome (List DWord)
  | [], s => (s, .ok [])
  | a :: as, s =>
    match s.memRead a w with
    | (t, .error o) => (t, .error o)
    | (t, .ok v) =>
      match State.readSeq w as t with
      | (u, .error o) => (u, .error o)
      | (u, .ok vs) => (u, .ok (v :: vs))

/-- Port writes one after another, in the order given. On a failure the earlier ones stay (R69 (b)); the second component is
the failure. -/
def State.writeSeq (w : Width) : List (Word × DWord) → State → State × Option StepOutcome
  | [], s => (s, none)
  | (a, v) :: l, s =>
    match s.memWrite a w v with
    | (t, some o) => (t, some o)
    | (t, none) => State.writeSeq w l t

/-- The addresses of `n` accesses `stride` bytes apart, ascending modulo 2^32 (R61, R69). -/
def addressesFrom (ea : Word) (stride : Nat) (n : Nat) : List Word :=
  (List.range n).map fun k => ea + BitVec.ofNat 32 (stride * k)

/-! ## General and floating-point registers (10_state.md R21, R35) -/

/-- GPR[r]. -/
def State.gpr (s : State) (r : GprNum) : Word := s.gprs[r.toNat]'r.isLt

/-- GPR[r] <- v. -/
def State.setGpr (s : State) (r : GprNum) (v : Word) : State := { s with gprs := s.gprs.set r.toNat v r.isLt }

/-- FPR[r]. -/
def State.fpr (s : State) (r : FprNum) : DWord := s.fprs[r.toNat]'r.isLt

/-- FPR[r] <- v. -/
def State.setFpr (s : State) (r : FprNum) (v : DWord) : State := { s with fprs := s.fprs.set r.toNat v r.isLt }

/-- GPR[r], GPR[r+1], ... <- the values, the number wrapping from 31 to 0 (43_fixed_point_load_store.md R300). -/
def State.setGprsFrom (s : State) (r : GprNum) : List Word → State
  | [] => s
  | v :: vs => (s.setGpr r v).setGprsFrom (r + 1) vs

/-! ## Four-bit fields and single bits of a 32-bit register, MSB-0 (00_scope.md R7; R24) -/

/-- Field `n` of a register: bits 4n to 4n+3. -/
def getField (w : Word) (n : CrField) : BitVec 4 := w.extractLsb' (28 - 4 * n.toNat) 4

/-- The ones of field `n`. -/
def fieldMask (n : CrField) : Word := (0xF0000000 : Word) >>> (4 * n.toNat)

/-- The register with field `n` replaced. -/
def putField (w : Word) (n : CrField) (v : BitVec 4) : Word :=
  (w &&& ~~~ (fieldMask n)) ||| (v.setWidth 32 <<< (28 - 4 * n.toNat))

/-- Bit `i` of a register. -/
def getBit (w : Word) (i : CrBit) : Bool := w.getMsbD i.toNat

/-- The one of bit `i`. -/
def bitMask (i : CrBit) : Word := (0x80000000 : Word) >>> i.toNat

/-- The register with bit `i` replaced. -/
def putBitAt (w : Word) (i : CrBit) (b : Bool) : Word :=
  if b then w ||| bitMask i else w &&& ~~~ (bitMask i)

/-- The ones of the fields an eight-bit mask selects, its most significant bit selecting field 0 (47_branch_unit.md R466;
45_floating_point_arithmetic.md R383). -/
def fieldsMask (m : BitVec 8) : Word :=
  (List.range 8).foldl (fun acc i => if m.getMsbD i then acc ||| ((0xF0000000 : Word) >>> (4 * i)) else acc) 0

/-- CRf[n] <- v. -/
def State.setCrField (s : State) (n : CrField) (v : BitVec 4) : State := { s with cr := putField s.cr n v }

/-- CRb[i] <- b. -/
def State.setCrBit (s : State) (i : CrBit) (b : Bool) : State := { s with cr := putBitAt s.cr i b }

/-! ## XER (R26) -/

/-- XER.SO. -/
def State.so (s : State) : Bool := s.xer.getMsbD 0

/-- XER.CA. -/
def State.ca (s : State) : Bool := s.xer.getMsbD 2

/-- XER.BC, the byte count of the string instructions. -/
def State.byteCount (s : State) : Nat := (s.xer &&& 0x7F).toNat

/-- XER.CA <- b. -/
def State.setCa (s : State) (b : Bool) : State := { s with xer := putBitAt s.xer 2 b }

/-- XER.OV <- ov, and XER.SO <- 1 where ov is 1 (41_fixed_point_arithmetic.md R162). -/
def State.setOv (s : State) (ov : Bool) : State :=
  { s with xer := if ov then putBitAt (putBitAt s.xer 1 true) 0 true else putBitAt s.xer 1 false }

/-! ## Special-purpose registers (R31, R34; 44_fixed_point_moves.md R320) -/

/-- What an SPR number names (R320). -/
inductive SprClass where
  | xer
  | lr
  | ctr
  | srr0
  | srr1
  | tbl
  | tbu
  | tbWrite
  | cell
deriving DecidableEq, Repr

/-- R320's table. -/
def sprClass (n : SprNum) : SprClass :=
  match n.toNat with
  | 1 => .xer
  | 8 => .lr
  | 9 => .ctr
  | 26 => .srr0
  | 27 => .srr1
  | 268 => .tbl
  | 269 => .tbu
  | 284 => .tbWrite
  | 285 => .tbWrite
  | _ => .cell

/-- A cell of the SPR file; a cell never written reads 0 (R31). -/
def State.sprCell (s : State) (n : SprNum) : Word := sparseGet 0 s.sprs n.toNat

/-- A cell of the SPR file <- v. -/
def State.setSprCell (s : State) (n : SprNum) (v : Word) : State := { s with sprs := sparseSet 0 s.sprs n.toNat v }

/-- The canonical form of the SPR file: no cell stands under an aliased or a time-base id (R31). -/
abbrev SprFile.wf (f : SprFile) : Prop :=
  sparseWf 0 1024 f ∧ ∀ c ∈ f, sprClass (BitVec.ofNat 10 c.1) = .cell

/-- TBL (R34). -/
def State.tbl (s : State) : Word := s.tb.setWidth 32

/-- TBU (R34). -/
def State.tbu (s : State) : Word := (s.tb >>> 32).setWidth 32

/-- The value `mfspr` of a number gives; none where the number is refused (R321). -/
def State.readSpr (s : State) (n : SprNum) : Option Word :=
  match sprClass n with
  | .xer => some s.xer
  | .lr => some s.lr
  | .ctr => some s.ctr
  | .srr0 => some s.srr0
  | .srr1 => some s.srr1
  | .tbl => some s.tbl
  | .tbu => some s.tbu
  | .tbWrite => none
  | .cell => some (s.sprCell n)

/-- The state after `mtspr` of a number, but for its PC; none where the number is refused (R322). -/
def State.writeSpr (s : State) (n : SprNum) (v : Word) : Option State :=
  match sprClass n with
  | .xer => some { s with xer := v }
  | .lr => some { s with lr := v }
  | .ctr => some { s with ctr := v }
  | .srr0 => some { s with srr0 := v }
  | .srr1 => some { s with srr1 := v }
  | .tbl => none
  | .tbu => none
  | .tbWrite => none
  | .cell => some (s.setSprCell n v)

/-! ## How a step ends (40_dispatcher.md R131, R135, R137; R540) -/

/-- The state after an instruction that completed without redirecting: PC <- (CIA + 4) mod 2^32 (R23, R135). -/
def State.completed (s : State) : State := { s with pc := s.pc + 4, outcome := some .ok }

/-- The state after an instruction that wrote PC itself (R135). -/
def State.redirected (s : State) (target : Word) : State := { s with pc := target, outcome := some .ok }

/-- The state after a step that failed: no register changes, PC included (R41, R67, R68). -/
def State.failed (s : State) (o : StepOutcome) : State := { s with outcome := some o }

/-- The state after the invalid-instruction path (R137). -/
def State.reported (s : State) (tag : Tag) (word : Word) : State :=
  { s with
    lastInvalid := some ⟨tag, s.pc, word⟩
    events := s.events ++ [⟨tag, s.pc, word⟩]
    pc := s.pc + 4
    outcome := some (.invalid ⟨tag, s.pc, word⟩) }

/-- Completes. -/
def complete (s : State) : Result := .next s.completed

/-- Redirects. -/
def redirect (target : Word) (s : State) : Result := .next (s.redirected target)

/-- R12: raises. -/
def fail (o : StepOutcome) (s : State) : Result := .next (s.failed o)

/-- The invalid-instruction path (R137). -/
def reportInvalid (tag : Tag) (word : Word) (s : State) : Result := .next (s.reported tag word)

/-- The numeric code of an outcome (R540). -/
def StepOutcome.code : StepOutcome → Nat
  | .ok => 0
  | .memoryFailure .. => 1
  | .invalid .. => 2
  | .alignment .. => 3

/-- The spelling of a tag (R137). -/
def Tag.name : Tag → String
  | .unknown => "unknown"
  | .unknown19 => "unknown_19"
  | .unknown31 => "unknown_31"
  | .unknown59 => "unknown_59"
  | .unknown63 => "unknown_63"
  | .lwarx => "lwarx"
  | .stwcxDot => "stwcx."
  | .mfsr => "mfsr"
  | .mfsrin => "mfsrin"
  | .mtsr => "mtsr"
  | .mtsrin => "mtsrin"
  | .tlbie => "tlbie"
  | .tlbsync => "tlbsync"
  | .tw => "tw"
  | .twi => "twi"
  | .mtspr => "mtspr"
  | .mfspr => "mfspr"
  | .mftb => "mftb"

/-! ## Taking the system-call exception, and returning (48_system_unit.md R491, R492; 60_exceptions.md R549, R550) -/

/-- MSR after `sc`: POW, EE, PR, FP, FE0, SE, BE, FE1, IR, DR, RI cleared, LE a copy of ILE (R491). -/
def systemCallMsr (msr : Word) : Word := (msr &&& ~~~ (0x0004EF32 : Word) &&& ~~~ (1 : Word)) ||| ((msr >>> 16) &&& 1)

/-- The vector of `sc`, chosen by MSR[IP] (R491). -/
def systemCallVector (msr : Word) : Word := if msr.getMsbD 25 then 0xFFF00C00 else 0x00000C00

/-- R491: the one trap entry of the core. -/
def systemCallEntry (s : State) : Result :=
  redirect (systemCallVector s.msr)
    { s with
      srr0 := s.pc + 4
      srr1 := s.msr &&& 0x0000FF73
      msr := systemCallMsr s.msr }

/-- R492: the return from it. -/
def returnFromInterrupt (s : State) : Result :=
  redirect (s.srr0 &&& 0xFFFFFFFC) { s with msr := (s.msr &&& 0xFFFF008C) ||| (s.srr1 &&& 0x0000FF73) }

end Sys2Proof.Machine
end

