-- ==== Sys2Proof/Machine/Operands.lean ====
section
/-! DEFINITION. The operand forms: effective addresses, immediates, rotate masks, byte reversal, branch targets and the branch
condition, and the loads and stores written over them. -/

namespace Sys2Proof.Machine

/-! ## Immediates and base operands (30_encoding.md R94, R96) -/

/-- sext_16 (00_scope.md R8). -/
def sext16 (i : BitVec 16) : Word := i.signExtend 32

/-- zext_16 (R8). -/
def zext16 (i : BitVec 16) : Word := i.setWidth 32

/-- A 16-bit immediate in the upper halfword (R165, R202, R204, R206). -/
def shifted16 (i : BitVec 16) : Word := i.setWidth 32 <<< 16

/-- (RA|0): the constant 0 where the RA field is 0, GPR[RA] otherwise (R96). -/
def State.raOrZero (s : State) (ra : GprNum) : Word := if ra = 0 then 0 else s.gpr ra

/-! ## Effective addresses (43_fixed_point_load_store.md R250) -/

/-- Form D. -/
def State.eaD (s : State) (ra : GprNum) (d : BitVec 16) : Word := s.raOrZero ra + sext16 d

/-- Form D update. -/
def State.eaDU (s : State) (ra : GprNum) (d : BitVec 16) : Word := s.gpr ra + sext16 d

/-- Form X. -/
def State.eaX (s : State) (ra rb : GprNum) : Word := s.raOrZero ra + s.gpr rb

/-- Form X update. -/
def State.eaXU (s : State) (ra rb : GprNum) : Word := s.gpr ra + s.gpr rb

/-! ## Values a load writes and a store sends -/

/-- The low word of a port value. -/
def lowWord (v : DWord) : Word := v.setWidth 32

/-- A halfword sign-extended (R261). -/
def signedHalf (v : DWord) : Word := (v.setWidth 16).signExtend 32

/-- swap16 of a halfword, zero-extended (R290). -/
def swap16 (w : Word) : Word := ((w &&& 0xFF) <<< 8) ||| ((w >>> 8) &&& 0xFF)

/-- swap32 (R290). -/
def swap32 (w : Word) : Word :=
  ((w &&& 0xFF) <<< 24) ||| ((w &&& 0xFF00) <<< 8) ||| ((w >>> 8) &&& 0xFF00) ||| (w >>> 24)

/-- A word as a port value. -/
def asPort (w : Word) : DWord := w.setWidth 64

/-- GPR[base] <- EA for an update form (R251), nothing for the others. -/
def State.updateBase (s : State) (base : Option GprNum) (ea : Word) : State :=
  match base with
  | none => s
  | some ra => s.setGpr ra ea

/-! ## Single loads and stores (R250 to R252; 46_floating_point_load_store.md R420) -/

/-- One read, GPR[RD] <- its value converted, then the base register (R251). -/
def loadGpr (w : Width) (conv : DWord → Word) (rd : GprNum) (ea : Word) (base : Option GprNum) (s : State) : Result :=
  match s.memRead ea w with
  | (t, .error o) => fail o t
  | (t, .ok v) => complete ((t.setGpr rd (conv v)).updateBase base ea)

/-- One read, FPR[FRD] <- its value converted, then the base register (R420). -/
def loadFpr (w : Width) (conv : DWord → DWord) (frd : FprNum) (ea : Word) (base : Option GprNum) (s : State) : Result :=
  match s.memRead ea w with
  | (t, .error o) => fail o t
  | (t, .ok v) => complete ((t.setFpr frd (conv v)).updateBase base ea)

/-- One write of the low bytes of a value, then the base register (R251, R420). -/
def storeValue (w : Width) (v : DWord) (ea : Word) (base : Option GprNum) (s : State) : Result :=
  match s.memWrite ea w v with
  | (t, some o) => fail o t
  | (t, none) => complete (t.updateBase base ea)

/-! ## Multiple and string accesses (R69, R294, R295, R300; 48_system_unit.md R500) -/

/-- Writes one after another, then completes; on a failure the writes already made stay and no register changes (R69). -/
def storeSeq (w : Width) (l : List (Word × DWord)) (s : State) : Result :=
  match State.writeSeq w l s with
  | (t, none) => complete t
  | (t, some o) => fail o t

/-- Reads one after another, then the registers from `r` on, from the values made into words; on a failure no register changes
(R69). -/
def loadSeq (w : Width) (as : List Word) (pack : List DWord → List Word) (r : GprNum) (s : State) : Result :=
  match State.readSeq w as s with
  | (t, .error o) => fail o t
  | (t, .ok vs) => complete (t.setGprsFrom r (pack vs))

/-- Four bytes to a word, the first most significant, the last word padded with zero on the right (R300). -/
def packBytes : List DWord → List Word
  | [] => []
  | [a] => [lowWord a <<< 24]
  | [a, b] => [(lowWord a <<< 24) ||| (lowWord b <<< 16)]
  | [a, b, c] => [(lowWord a <<< 24) ||| (lowWord b <<< 16) ||| (lowWord c <<< 8)]
  | a :: b :: c :: d :: l =>
    ((lowWord a <<< 24) ||| (lowWord b <<< 16) ||| (lowWord c <<< 8) ||| lowWord d) :: packBytes l

/-- LoadString (R300). -/
def loadString (ea : Word) (n : Nat) (r : GprNum) (s : State) : Result :=
  loadSeq .byte (addressesFrom ea 1 n) packBytes r s

/-- The byte StoreString sends as its i-th: register `r + i/4` modulo 32, most significant byte first (R300). -/
def State.stringByte (s : State) (r : GprNum) (i : Nat) : DWord :=
  asPort ((s.gpr (r + BitVec.ofNat 5 (i / 4)) >>> (8 * (3 - i % 4))) &&& 0xFF)

/-- The writes of StoreString (R300). -/
def State.stringWrites (s : State) (ea : Word) (n : Nat) (r : GprNum) : List (Word × DWord) :=
  (List.range n).map fun i => (ea + BitVec.ofNat 32 i, s.stringByte r i)

/-- StoreString (R300). -/
def storeString (ea : Word) (n : Nat) (r : GprNum) (s : State) : Result :=
  storeSeq .byte (s.stringWrites ea n r) s

/-- The byte count of `lswi` and `stswi`: NB, 0 standing for 32 (R296). -/
def immediateCount (nb : BitVec 5) : Nat := if nb = 0 then 32 else nb.toNat

/-- The writes of `stmw` (R295). -/
def State.multipleWrites (s : State) (ea : Word) (r : GprNum) : List (Word × DWord) :=
  (List.range (32 - r.toNat)).map fun k => (ea + BitVec.ofNat 32 (4 * k), asPort (s.gpr (r + BitVec.ofNat 5 k)))

/-- CACHE_BLOCK_BYTES (P10). -/
def State.cacheBlockBytes (s : State) : Nat := 4 * 2 ^ s.params.cacheBlockShift.val

/-- The first address of the cache block that holds an address (R500). -/
def State.cacheBlockBase (s : State) (ea : Word) : Word := ea &&& ~~~ (BitVec.ofNat 32 (s.cacheBlockBytes - 1))

/-- The writes of `dcbz`: a zero word at each address of the block (R500). -/
def State.blockWrites (s : State) (ea : Word) : List (Word × DWord) :=
  (List.range (s.cacheBlockBytes / 4)).map fun k => (s.cacheBlockBase ea + BitVec.ofNat 32 (4 * k), 0)

/-! ## Rotates (42_fixed_point_logical_compare_shift.md R222) -/

/-- ROTL32 (R8). -/
def rotl (x : Word) (n : BitVec 5) : Word := (x <<< n.toNat) ||| (x >>> (32 - n.toNat))

/-- MASK(mb, me): ones from bit mb to bit me, wrapping where mb is above me (R222). -/
def mask (mb me : BitVec 5) : Word :=
  let fromMb : Word := (0xFFFFFFFF : Word) >>> mb.toNat
  let upToMe : Word := (0xFFFFFFFF : Word) <<< (31 - me.toNat)
  if mb.toNat ≤ me.toNat then fromMb &&& upToMe else fromMb ||| upToMe

/-! ## Branches (47_branch_unit.md R451 to R455, R467) -/

/-- The displacement of the I form: sext_26(LI || 0b00) (R451). -/
def displacementI (li : BitVec 24) : Word := (li ++ (0 : BitVec 2)).signExtend 32

/-- The displacement of the B form: sext_16(BD || 0b00) (R452). -/
def displacementB (bd : BitVec 14) : Word := (bd ++ (0 : BitVec 2)).signExtend 32

/-- Absolute or relative to CIA (R451, R452). -/
def State.branchTarget (s : State) (off : Word) (aa : Bool) : Word := if aa then off else s.pc + off

/-- A register's value as a branch target (R455). -/
def registerTarget (r : Word) : Word := r &&& 0xFFFFFFFC

/-- CTR after the evaluation of BO: decremented once where BO[2] is 0 (R467). -/
def State.branchCtr (s : State) (bo : BitVec 5) : Word := if bo.getMsbD 2 then s.ctr else s.ctr - 1

/-- BranchCond: whether the branch is taken (R467). -/
def State.branchTaken (s : State) (bo : BitVec 5) (bi : CrBit) : Bool :=
  (bo.getMsbD 2 || (decide (s.branchCtr bo ≠ 0) ^^ bo.getMsbD 3)) &&
    (bo.getMsbD 0 || getBit s.cr bi == bo.getMsbD 1)

/-- LR <- (CIA + 4) where LK is 1, taken or not (R455). -/
def State.link (s : State) (lk : Bool) : State := if lk then { s with lr := s.pc + 4 } else s

/-- The end of a conditional branch: CTR, LR and PC together, from the state at the start of the step (R136, R455, R467). -/
def branchConditional (target : Word) (bo : BitVec 5) (bi : CrBit) (lk : Bool) (s : State) : Result :=
  redirect (if s.branchTaken bo bi then target else s.pc + 4) ({ s with ctr := s.branchCtr bo }.link lk)

end Sys2Proof.Machine
end

