-- ==== Sys2Proof/Machine/Flags.lean ====
section
/-! DEFINITION. The flag computations: CR field 0, OV, SO and CA of the fixed-point unit (41_fixed_point_arithmetic.md R161 to
R163), the compare fields (42_fixed_point_logical_compare_shift.md R218 to R221), FPSCR and its derived bits (10_state.md R36, R37;
45_floating_point_arithmetic.md R348 to R350); and how a fixed-point instruction ends with them. -/

namespace Sys2Proof.Machine

/-! ## Condition fields -/

/-- LT, GT, EQ as the three upper bits of a field, and the fourth bit beside them (R24). -/
def conditionField (lt gt fourth : Bool) : BitVec 4 :=
  (if lt then 8 else if gt then 4 else 2) ||| (if fourth then 1 else 0)

/-- A signed comparison of two words as a CR field (R218, R219). -/
def compareSigned (a b : Word) (so : Bool) : BitVec 4 := conditionField (a.slt b) (b.slt a) so

/-- An unsigned comparison of two words as a CR field (R220, R221). -/
def compareUnsigned (a b : Word) (so : Bool) : BitVec 4 := conditionField (a.ult b) (b.ult a) so

/-- R161: CR field 0 from a 32-bit result compared with zero, and the XER.SO of the state as it stands. -/
def State.recordCr0 (s : State) (rc : Bool) (r : Word) : State :=
  if rc then s.setCrField 0 (compareSigned r 0 s.so) else s

/-- CRf[crfD] <- a comparison; the end of the four compares. -/
def finishCompare (crfD : CrField) (c : BitVec 4) (s : State) : Result := complete (s.setCrField crfD c)

/-! ## Carry and overflow -/

/-- A flag as a number. -/
def bitNat (b : Bool) : Nat := if b then 1 else 0

/-- A flag as an exact integer. -/
def bitInt (b : Bool) : Int := if b then 1 else 0

/-- The sum of R163, modulo 2^32. -/
def carrySum (x y : Word) (cin : Bool) : Word := x + y + BitVec.ofNat 32 (bitNat cin)

/-- The carry of R163: the exact unsigned sum reaches 2^32. -/
def carryOut (x y : Word) (cin : Bool) : Bool := decide (2 ^ 32 ≤ x.toNat + y.toNat + bitNat cin)

/-- R162: an exact signed result does not fit in 32 bits. -/
def overflows (i : Int) : Bool := decide (i < -(2 ^ 31)) || decide (2 ^ 31 ≤ i)

/-- R162: the OV and SO update of an instruction with an OE bit. -/
def State.setOvIf (s : State) (oe ov : Bool) : State := if oe then s.setOv ov else s

/-! ## How a fixed-point instruction ends -/

/-- GPR[r] <- v, then the record rule, then PC + 4: the logical, rotate and shift instructions and those of the arithmetic ones
that touch no XER bit. -/
def finishResult (r : GprNum) (v : Word) (rc : Bool) (s : State) : Result :=
  complete ((s.setGpr r v).recordCr0 rc v)

/-- GPR[r] <- v, XER.CA <- ca, then the record rule, then PC + 4. -/
def finishCarry (r : GprNum) (v : Word) (ca : Bool) (rc : Bool) (s : State) : Result :=
  complete (((s.setGpr r v).setCa ca).recordCr0 rc v)

/-- GPR[r] <- v, OV and SO where OE is 1, then the record rule, then PC + 4 (R161, R162). -/
def finishOverflow (r : GprNum) (v : Word) (ov oe rc : Bool) (s : State) : Result :=
  complete (((s.setGpr r v).setOvIf oe ov).recordCr0 rc v)

/-- GPR[r] <- v, XER.CA <- ca, OV and SO where OE is 1, then the record rule, then PC + 4 (R161 to R163). -/
def finishCarryOverflow (r : GprNum) (v : Word) (ca ov oe rc : Bool) (s : State) : Result :=
  complete ((((s.setGpr r v).setCa ca).setOvIf oe ov).recordCr0 rc v)

/-- The carrying adds and subtracts: the sum of R163 of two addends and a carry-in, whose exact signed sum says OV. -/
def addCarrying (rd : GprNum) (x y : Word) (cin oe rc : Bool) (s : State) : Result :=
  finishCarryOverflow rd (carrySum x y cin) (carryOut x y cin) (overflows (x.toInt + y.toInt + bitInt cin)) oe rc s

/-- CRb[crbD] <- b, then PC + 4: the eight CR logical instructions (47_branch_unit.md section 3). -/
def finishCrBit (crbD : CrBit) (b : Bool) (s : State) : Result := complete (s.setCrBit crbD b)

/-! ## FPSCR (R36) -/

/-- FX. -/
def fpFX : Word := 0x80000000
/-- FEX. -/
def fpFEX : Word := 0x40000000
/-- VX. -/
def fpVX : Word := 0x20000000
/-- OX. -/
def fpOX : Word := 0x10000000
/-- UX. -/
def fpUX : Word := 0x08000000
/-- ZX. -/
def fpZX : Word := 0x04000000
/-- XX. -/
def fpXX : Word := 0x02000000
/-- VXSNAN. -/
def fpVXSNAN : Word := 0x01000000
/-- VXISI. -/
def fpVXISI : Word := 0x00800000
/-- VXIDI. -/
def fpVXIDI : Word := 0x00400000
/-- VXZDZ. -/
def fpVXZDZ : Word := 0x00200000
/-- VXIMZ. -/
def fpVXIMZ : Word := 0x00100000
/-- VXVC. -/
def fpVXVC : Word := 0x00080000
/-- VXSQRT. -/
def fpVXSQRT : Word := 0x00000200
/-- VXCVI. -/
def fpVXCVI : Word := 0x00000100
/-- The nine VX* bits: VXSNAN, VXISI, VXIDI, VXZDZ, VXIMZ, VXVC, VXSOFT, VXSQRT, VXCVI (R37). -/
def fpInvalidBits : Word := 0x01F80700
/-- The exception bits, 3:12 and 21:23 (R37, R349). -/
def fpExceptionBits : Word := 0x1FF80700

/-- RN (R36). -/
def roundingMode (fpscr : Word) : BitVec 2 := fpscr.extractLsb' 0 2

/-- VX as R37 derives it. -/
def fpscrVX (w : Word) : Bool := w &&& fpInvalidBits != 0

/-- FEX as R37 derives it: VX and VE, OX and OE, UX and UE, ZX and ZE, XX and XE. -/
def fpscrFEX (w : Word) : Bool :=
  (fpscrVX w && w.getMsbD 24) || (w.getMsbD 3 && w.getMsbD 25) || (w.getMsbD 4 && w.getMsbD 26) ||
    (w.getMsbD 5 && w.getMsbD 27) || (w.getMsbD 6 && w.getMsbD 28)

/-- R37: bits 1 and 2 recomputed from the others. -/
def deriveFpscr (w : Word) : Word := putBitAt (putBitAt w 2 (fpscrVX w)) 1 (fpscrFEX w)

/-- R37's statement that the derived bits are what they are derived from. -/
abbrev fpscrConsistent (w : Word) : Prop := w.getMsbD 2 = fpscrVX w ∧ w.getMsbD 1 = fpscrFEX w

/-- FX set where an exception bit went from 0 to 1 (R37, R349). -/
def raiseFX (old new : Word) : Word := if new &&& ~~~ old &&& fpExceptionBits = 0 then new else new ||| fpFX

/-- FR and FI replaced (R349). -/
def putFrFi (w : Word) (fr fi : Bool) : Word := putBitAt (putBitAt w 13 fr) 14 fi

/-- FPRF, bits 15:19, replaced (R349). -/
def putFprf (w : Word) (fprf : BitVec 5) : Word := (w &&& ~~~ (0x0001F000 : Word)) ||| (fprf.setWidth 32 <<< 12)

/-- FPCC, bits 16:19, replaced (R374). -/
def putFpcc (w : Word) (c : BitVec 4) : Word := (w &&& ~~~ (0x0000F000 : Word)) ||| (c.setWidth 32 <<< 12)

/-- R349: the commit. `flags` are ORed in; `change` puts in FR, FI, FPRF or FPCC where the instruction writes them, and touches no
exception bit; then FX and the derived bits. -/
def commitFpscr (old flags : Word) (change : Word → Word) : Word :=
  deriveFpscr (raiseFX old (change (old ||| flags)))

/-- FPSCR <- w. -/
def State.setFpscr (s : State) (w : Word) : State := { s with fpscr := w }

/-- P6 as a CR field number (R350). -/
def State.fpRecordField (s : State) : CrField := BitVec.ofNat 3 s.params.fpRecordField.val

/-- R350: CRf[FP_RECORD_FIELD] <- FPSCR[0:3], after the commit. -/
def State.recordFp (s : State) (rc : Bool) : State :=
  if rc then s.setCrField s.fpRecordField (getField s.fpscr 0) else s

/-- An FPR written, FPSCR replaced, the record rule, PC + 4. -/
def finishFp (frd : FprNum) (v : DWord) (fpscr : Word) (rc : Bool) (s : State) : Result :=
  complete (((s.setFpr frd v).setFpscr fpscr).recordFp rc)

/-- An FPR written and nothing of FPSCR, the record rule, PC + 4 (R376 to R380). -/
def finishFpMove (frd : FprNum) (v : DWord) (rc : Bool) (s : State) : Result :=
  complete ((s.setFpr frd v).recordFp rc)

/-- FPSCR replaced, the record rule, PC + 4 (R382 to R385). -/
def finishFpscr (fpscr : Word) (rc : Bool) (s : State) : Result := complete ((s.setFpscr fpscr).recordFp rc)

/-- FPSCR with the bits `m` selects, except bits 1 and 2, taken from `v`, and the derived bits recomputed (R382, R383). -/
def replaceFpscr (old m v : Word) : Word :=
  let m' := m &&& 0x9FFFFFFF
  deriveFpscr ((old &&& ~~~ m') ||| (v &&& m'))

end Sys2Proof.Machine
end

