-- ==== Sys2Proof/Machine/Branch.lean ====
section
/-! DEFINITION. The branch unit and the condition-register instructions (47_branch_unit.md R450 to R467). -/

namespace Sys2Proof.Machine

/-! ## Branches -/

/-- `b` (R451). -/
def execB (li : BitVec 24) (aa lk : Bool) (s : State) : Result :=
  redirect (s.branchTarget (displacementI li) aa) (s.link lk)

/-- `bc` (R452). -/
def execBc (bo : BitVec 5) (bi : CrBit) (bd : BitVec 14) (aa lk : Bool) (s : State) : Result :=
  branchConditional (s.branchTarget (displacementB bd) aa) bo bi lk s

/-- `bclr` (R453): the target is the LR of the start of the step. -/
def execBclr (bo : BitVec 5) (bi : CrBit) (lk : Bool) (s : State) : Result :=
  branchConditional (registerTarget s.lr) bo bi lk s

/-- `bcctr` (R454): the target is the CTR of the start of the step, whatever BO[2] is. -/
def execBcctr (bo : BitVec 5) (bi : CrBit) (lk : Bool) (s : State) : Result :=
  branchConditional (registerTarget s.ctr) bo bi lk s

/-! ## Condition-register logic -/

/-- `crand` (R456). -/
def execCrand (crbD crbA crbB : CrBit) (s : State) : Result :=
  finishCrBit crbD (getBit s.cr crbA && getBit s.cr crbB) s

/-- `cror` (R457). -/
def execCror (crbD crbA crbB : CrBit) (s : State) : Result :=
  finishCrBit crbD (getBit s.cr crbA || getBit s.cr crbB) s

/-- `crxor` (R458). -/
def execCrxor (crbD crbA crbB : CrBit) (s : State) : Result :=
  finishCrBit crbD (getBit s.cr crbA ^^ getBit s.cr crbB) s

/-- `crnand` (R459). -/
def execCrnand (crbD crbA crbB : CrBit) (s : State) : Result :=
  finishCrBit crbD (!(getBit s.cr crbA && getBit s.cr crbB)) s

/-- `crnor` (R460). -/
def execCrnor (crbD crbA crbB : CrBit) (s : State) : Result :=
  finishCrBit crbD (!(getBit s.cr crbA || getBit s.cr crbB)) s

/-- `creqv` (R461). -/
def execCreqv (crbD crbA crbB : CrBit) (s : State) : Result :=
  finishCrBit crbD (!(getBit s.cr crbA ^^ getBit s.cr crbB)) s

/-- `crandc` (R462). -/
def execCrandc (crbD crbA crbB : CrBit) (s : State) : Result :=
  finishCrBit crbD (getBit s.cr crbA && !getBit s.cr crbB) s

/-- `crorc` (R463). -/
def execCrorc (crbD crbA crbB : CrBit) (s : State) : Result :=
  finishCrBit crbD (getBit s.cr crbA || !getBit s.cr crbB) s

/-! ## Condition-register moves -/

/-- `mcrf` (R464). -/
def execMcrf (crfD crfS : CrField) (s : State) : Result :=
  complete (s.setCrField crfD (getField s.cr crfS))

/-- `mfcr` (R465). -/
def execMfcr (rd : GprNum) (s : State) : Result := complete (s.setGpr rd s.cr)

/-- `mtcrf` (R466). -/
def execMtcrf (rs : GprNum) (crm : BitVec 8) (s : State) : Result :=
  complete { s with cr := (s.gpr rs &&& fieldsMask crm) ||| (s.cr &&& ~~~ (fieldsMask crm)) }

end Sys2Proof.Machine
end

