-- ==== Sys2Proof/Machine/FixedArith.lean ====
section
/-! DEFINITION. The fixed-point arithmetic instructions (41_fixed_point_arithmetic.md R160 to R186). In the XO form `a` is GPR[RA]
and `b` is GPR[RB]; subtraction is `b - a`. -/

namespace Sys2Proof.Machine

/-! ## Immediate forms -/

/-- `addi` (R164). -/
def execAddi (rd ra : GprNum) (simm : BitVec 16) (s : State) : Result :=
  finishResult rd (s.raOrZero ra + sext16 simm) false s

/-- `addis` (R165). -/
def execAddis (rd ra : GprNum) (simm : BitVec 16) (s : State) : Result :=
  finishResult rd (s.raOrZero ra + shifted16 simm) false s

/-- `addic` (R166). -/
def execAddic (rd ra : GprNum) (simm : BitVec 16) (s : State) : Result :=
  finishCarry rd (carrySum (s.gpr ra) (sext16 simm) false) (carryOut (s.gpr ra) (sext16 simm) false) false s

/-- `addic.` (R167). -/
def execAddicDot (rd ra : GprNum) (simm : BitVec 16) (s : State) : Result :=
  finishCarry rd (carrySum (s.gpr ra) (sext16 simm) false) (carryOut (s.gpr ra) (sext16 simm) false) true s

/-- `subfic` (R168). -/
def execSubfic (rd ra : GprNum) (simm : BitVec 16) (s : State) : Result :=
  finishCarry rd (carrySum (~~~ (s.gpr ra)) (sext16 simm) true) (carryOut (~~~ (s.gpr ra)) (sext16 simm) true) false s

/-- `mulli` (R169). -/
def execMulli (rd ra : GprNum) (simm : BitVec 16) (s : State) : Result :=
  finishResult rd (BitVec.ofInt 32 ((s.gpr ra).toInt * (sext16 simm).toInt)) false s

/-! ## Register forms -/

/-- `add` (R170). -/
def execAdd (rd ra rb : GprNum) (oe rc : Bool) (s : State) : Result :=
  finishOverflow rd (s.gpr ra + s.gpr rb) (overflows ((s.gpr ra).toInt + (s.gpr rb).toInt)) oe rc s

/-- `addc` (R171). -/
def execAddc (rd ra rb : GprNum) (oe rc : Bool) (s : State) : Result :=
  addCarrying rd (s.gpr ra) (s.gpr rb) false oe rc s

/-- `adde` (R172). -/
def execAdde (rd ra rb : GprNum) (oe rc : Bool) (s : State) : Result :=
  addCarrying rd (s.gpr ra) (s.gpr rb) s.ca oe rc s

/-- `addme` (R173). -/
def execAddme (rd ra : GprNum) (oe rc : Bool) (s : State) : Result :=
  addCarrying rd (s.gpr ra) 0xFFFFFFFF s.ca oe rc s

/-- `addze` (R174). -/
def execAddze (rd ra : GprNum) (oe rc : Bool) (s : State) : Result :=
  addCarrying rd (s.gpr ra) 0 s.ca oe rc s

/-- `subf` (R175). -/
def execSubf (rd ra rb : GprNum) (oe rc : Bool) (s : State) : Result :=
  finishOverflow rd (s.gpr rb - s.gpr ra) (overflows ((s.gpr rb).toInt - (s.gpr ra).toInt)) oe rc s

/-- `subfc` (R176). -/
def execSubfc (rd ra rb : GprNum) (oe rc : Bool) (s : State) : Result :=
  addCarrying rd (~~~ (s.gpr ra)) (s.gpr rb) true oe rc s

/-- `subfe` (R177). -/
def execSubfe (rd ra rb : GprNum) (oe rc : Bool) (s : State) : Result :=
  addCarrying rd (~~~ (s.gpr ra)) (s.gpr rb) s.ca oe rc s

/-- `subfme` (R178). -/
def execSubfme (rd ra : GprNum) (oe rc : Bool) (s : State) : Result :=
  addCarrying rd (~~~ (s.gpr ra)) 0xFFFFFFFF s.ca oe rc s

/-- `subfze` (R179). -/
def execSubfze (rd ra : GprNum) (oe rc : Bool) (s : State) : Result :=
  addCarrying rd (~~~ (s.gpr ra)) 0 s.ca oe rc s

/-- `neg` (R180). -/
def execNeg (rd ra : GprNum) (oe rc : Bool) (s : State) : Result :=
  finishOverflow rd (~~~ (s.gpr ra) + 1) (decide (s.gpr ra = 0x80000000)) oe rc s

/-- `mullw` (R181). -/
def execMullw (rd ra rb : GprNum) (oe rc : Bool) (s : State) : Result :=
  finishOverflow rd (s.gpr ra * s.gpr rb) (overflows ((s.gpr ra).toInt * (s.gpr rb).toInt)) oe rc s

/-- `mulhw` (R182). -/
def execMulhw (rd ra rb : GprNum) (rc : Bool) (s : State) : Result :=
  finishResult rd (BitVec.ofInt 32 ((s.gpr ra).toInt * (s.gpr rb).toInt / 2 ^ 32)) rc s

/-- `mulhwu` (R183). -/
def execMulhwu (rd ra rb : GprNum) (rc : Bool) (s : State) : Result :=
  finishResult rd (BitVec.ofNat 32 ((s.gpr ra).toNat * (s.gpr rb).toNat / 2 ^ 32)) rc s

/-- Whether a signed division has no quotient in 32 bits (R184). -/
def divideFails (a b : Word) : Bool := b == 0 || (a == 0x80000000 && b == 0xFFFFFFFF)

/-- `divw` (R184). -/
def execDivw (rd ra rb : GprNum) (oe rc : Bool) (s : State) : Result :=
  finishOverflow rd
    (if divideFails (s.gpr ra) (s.gpr rb) then 0 else BitVec.ofInt 32 ((s.gpr ra).toInt.tdiv (s.gpr rb).toInt))
    (divideFails (s.gpr ra) (s.gpr rb)) oe rc s

/-- `divwu` (R185). -/
def execDivwu (rd ra rb : GprNum) (oe rc : Bool) (s : State) : Result :=
  finishOverflow rd
    (if s.gpr rb = 0 then 0 else BitVec.ofNat 32 ((s.gpr ra).toNat / (s.gpr rb).toNat))
    (decide (s.gpr rb = 0)) oe rc s

end Sys2Proof.Machine
end

