-- ==== Sys2Proof/Machine/FixedLogic.lean ====
section
/-! DEFINITION. The fixed-point logical, compare, rotate and shift instructions (42_fixed_point_logical_compare_shift.md R200 to
R229). The destination is GPR[RA] and the first source GPR[RS] (R200). -/

namespace Sys2Proof.Machine

/-! ## Logical immediates -/

/-- `andi.` (R201). -/
def execAndiDot (rs ra : GprNum) (uimm : BitVec 16) (s : State) : Result :=
  finishResult ra (s.gpr rs &&& zext16 uimm) true s

/-- `andis.` (R202). -/
def execAndisDot (rs ra : GprNum) (uimm : BitVec 16) (s : State) : Result :=
  finishResult ra (s.gpr rs &&& shifted16 uimm) true s

/-- `ori` (R203). -/
def execOri (rs ra : GprNum) (uimm : BitVec 16) (s : State) : Result :=
  finishResult ra (s.gpr rs ||| zext16 uimm) false s

/-- `oris` (R204). -/
def execOris (rs ra : GprNum) (uimm : BitVec 16) (s : State) : Result :=
  finishResult ra (s.gpr rs ||| shifted16 uimm) false s

/-- `xori` (R205). -/
def execXori (rs ra : GprNum) (uimm : BitVec 16) (s : State) : Result :=
  finishResult ra (s.gpr rs ^^^ zext16 uimm) false s

/-- `xoris` (R206). -/
def execXoris (rs ra : GprNum) (uimm : BitVec 16) (s : State) : Result :=
  finishResult ra (s.gpr rs ^^^ shifted16 uimm) false s

/-! ## Logical register forms -/

/-- `and` (R207). -/
def execAnd (rs ra rb : GprNum) (rc : Bool) (s : State) : Result :=
  finishResult ra (s.gpr rs &&& s.gpr rb) rc s

/-- `or` (R208). -/
def execOr (rs ra rb : GprNum) (rc : Bool) (s : State) : Result :=
  finishResult ra (s.gpr rs ||| s.gpr rb) rc s

/-- `xor` (R209). -/
def execXor (rs ra rb : GprNum) (rc : Bool) (s : State) : Result :=
  finishResult ra (s.gpr rs ^^^ s.gpr rb) rc s

/-- `nand` (R210). -/
def execNand (rs ra rb : GprNum) (rc : Bool) (s : State) : Result :=
  finishResult ra (~~~ (s.gpr rs &&& s.gpr rb)) rc s

/-- `nor` (R211). -/
def execNor (rs ra rb : GprNum) (rc : Bool) (s : State) : Result :=
  finishResult ra (~~~ (s.gpr rs ||| s.gpr rb)) rc s

/-- `andc` (R212). -/
def execAndc (rs ra rb : GprNum) (rc : Bool) (s : State) : Result :=
  finishResult ra (s.gpr rs &&& ~~~ (s.gpr rb)) rc s

/-- `orc` (R213). -/
def execOrc (rs ra rb : GprNum) (rc : Bool) (s : State) : Result :=
  finishResult ra (s.gpr rs ||| ~~~ (s.gpr rb)) rc s

/-- `eqv` (R214). -/
def execEqv (rs ra rb : GprNum) (rc : Bool) (s : State) : Result :=
  finishResult ra (~~~ (s.gpr rs ^^^ s.gpr rb)) rc s

/-- `extsb` (R215). -/
def execExtsb (rs ra : GprNum) (rc : Bool) (s : State) : Result :=
  finishResult ra (((s.gpr rs).setWidth 8).signExtend 32) rc s

/-- `extsh` (R216). -/
def execExtsh (rs ra : GprNum) (rc : Bool) (s : State) : Result :=
  finishResult ra (((s.gpr rs).setWidth 16).signExtend 32) rc s

/-- The number of 0 bits before the first 1 bit, 32 for 0 (R217). -/
def leadingZeros (w : Word) : Nat := if w = 0 then 32 else 31 - Nat.log2 w.toNat

/-- `cntlzw` (R217). -/
def execCntlzw (rs ra : GprNum) (rc : Bool) (s : State) : Result :=
  finishResult ra (BitVec.ofNat 32 (leadingZeros (s.gpr rs))) rc s

/-! ## Compares. The L bit is not read (R218). -/

/-- `cmpi` (R218). -/
def execCmpi (crfD : CrField) (ra : GprNum) (simm : BitVec 16) (s : State) : Result :=
  finishCompare crfD (compareSigned (s.gpr ra) (sext16 simm) s.so) s

/-- `cmp` (R219). -/
def execCmp (crfD : CrField) (ra rb : GprNum) (s : State) : Result :=
  finishCompare crfD (compareSigned (s.gpr ra) (s.gpr rb) s.so) s

/-- `cmpli` (R220). -/
def execCmpli (crfD : CrField) (ra : GprNum) (uimm : BitVec 16) (s : State) : Result :=
  finishCompare crfD (compareUnsigned (s.gpr ra) (zext16 uimm) s.so) s

/-- `cmpl` (R221). -/
def execCmpl (crfD : CrField) (ra rb : GprNum) (s : State) : Result :=
  finishCompare crfD (compareUnsigned (s.gpr ra) (s.gpr rb) s.so) s

/-! ## Rotates -/

/-- `rlwinm` (R223). -/
def execRlwinm (rs ra : GprNum) (sh mb me : BitVec 5) (rc : Bool) (s : State) : Result :=
  finishResult ra (rotl (s.gpr rs) sh &&& mask mb me) rc s

/-- `rlwimi` (R224). -/
def execRlwimi (rs ra : GprNum) (sh mb me : BitVec 5) (rc : Bool) (s : State) : Result :=
  finishResult ra ((rotl (s.gpr rs) sh &&& mask mb me) ||| (s.gpr ra &&& ~~~ (mask mb me))) rc s

/-- `rlwnm` (R225). -/
def execRlwnm (rs ra rb : GprNum) (mb me : BitVec 5) (rc : Bool) (s : State) : Result :=
  finishResult ra (rotl (s.gpr rs) ((s.gpr rb).setWidth 5) &&& mask mb me) rc s

/-! ## Shifts -/

/-- The shift count: the low six bits of a register (R226). -/
def shiftCount (w : Word) : Nat := (w &&& 63).toNat

/-- `slw` (R226): a count of 32 or more leaves no bit. -/
def execSlw (rs ra rb : GprNum) (rc : Bool) (s : State) : Result :=
  finishResult ra (if shiftCount (s.gpr rb) < 32 then s.gpr rs <<< shiftCount (s.gpr rb) else 0) rc s

/-- `srw` (R227). -/
def execSrw (rs ra rb : GprNum) (rc : Bool) (s : State) : Result :=
  finishResult ra (if shiftCount (s.gpr rb) < 32 then s.gpr rs >>> shiftCount (s.gpr rb) else 0) rc s

/-- The arithmetic shift right by n, 0 to 63 (R228). -/
def shiftAlgebraic (w : Word) (n : Nat) : Word :=
  if n < 32 then w.sshiftRight n else if w.msb then 0xFFFFFFFF else 0

/-- CA of the arithmetic shift: a negative source that lost a 1 bit (R228). -/
def shiftCarry (w : Word) (n : Nat) : Bool :=
  if n < 32 then w.msb && decide (w.toNat % 2 ^ n ≠ 0) else w.msb

/-- `sraw` (R228). -/
def execSraw (rs ra rb : GprNum) (rc : Bool) (s : State) : Result :=
  finishCarry ra (shiftAlgebraic (s.gpr rs) (shiftCount (s.gpr rb))) (shiftCarry (s.gpr rs) (shiftCount (s.gpr rb))) rc s

/-- `srawi` (R229). -/
def execSrawi (rs ra : GprNum) (sh : BitVec 5) (rc : Bool) (s : State) : Result :=
  finishCarry ra (shiftAlgebraic (s.gpr rs) sh.toNat) (shiftCarry (s.gpr rs) sh.toNat) rc s

end Sys2Proof.Machine
end

