-- ==== Sys2Proof/Machine/Float.lean ====
section
/-! DEFINITION. Floating-point values: classes, exact numbers, the one rounding of 45_floating_point_arithmetic.md R343 with R344 and
R345, the arithmetic skeleton R352, the estimates, the conversions and the compare. A finite non-zero magnitude is held exactly,
as num / den * 2^e with num and den natural numbers; everything is computed exactly and rounded once. -/

namespace Sys2Proof.Machine

/-! ## Classes and fields of a binary64 pattern (R341) -/

/-- The sign bit. -/
def signOf (d : DWord) : Bool := d.getMsbD 0

/-- The biased exponent, bits 1:11. -/
def expOf (d : DWord) : Nat := (d.extractLsb' 52 11).toNat

/-- The fraction, bits 12:63. -/
def fracOf (d : DWord) : Nat := (d.extractLsb' 0 52).toNat

/-- A NaN. -/
def isNaN (d : DWord) : Bool := expOf d == 2047 && fracOf d != 0

/-- A signalling NaN: the most significant fraction bit is 0. -/
def isSNaN (d : DWord) : Bool := isNaN d && !d.getMsbD 12

/-- An infinity. -/
def isInf (d : DWord) : Bool := expOf d == 2047 && fracOf d == 0

/-- A zero. -/
def isZero (d : DWord) : Bool := expOf d == 0 && fracOf d == 0

/-- The significand of a finite value as an integer: its magnitude is `magOf d * 2^(scaleOf d)`. -/
def magOf (d : DWord) : Nat := if expOf d = 0 then fracOf d else 2 ^ 52 + fracOf d

/-- The weight of the significand's last bit, as an exponent of two. -/
def scaleOf (d : DWord) : Int := if expOf d = 0 then -1074 else (expOf d : Int) - 1075

/-- R341's quiet. -/
def quiet (d : DWord) : DWord := d ||| 0x0008000000000000

/-- The default QNaN. -/
def defaultNaN : DWord := 0x7FF8000000000000

/-- The sign bit in its place. -/
def signBit (neg : Bool) : DWord := if neg then 0x8000000000000000 else 0

/-- An infinity of a sign. -/
def infinity (neg : Bool) : DWord := signBit neg ||| 0x7FF0000000000000

/-- A zero of a sign. -/
def zero (neg : Bool) : DWord := signBit neg

/-- The pattern with its sign inverted. -/
def negate (d : DWord) : DWord := d ^^^ 0x8000000000000000

/-! ## Formats (R343) -/

/-- The format an instruction rounds to. -/
inductive FpFormat where
  | double
  | single
deriving DecidableEq, Repr

/-- The precision p. -/
def FpFormat.precision : FpFormat → Int
  | .double => 53
  | .single => 24

/-- The least exponent of a normal. -/
def FpFormat.emin : FpFormat → Int
  | .double => -1022
  | .single => -126

/-- The greatest exponent. -/
def FpFormat.emax : FpFormat → Int
  | .double => 1023
  | .single => 127

/-- The largest finite magnitude, held as binary64 (R341). -/
def FpFormat.largest : FpFormat → DWord
  | .double => 0x7FEFFFFFFFFFFFFF
  | .single => 0x47EFFFFFE0000000

/-! ## Rounding (R343 to R345) -/

/-- The numerator's share of a power of two. -/
def pow2Up (e : Int) : Nat := 2 ^ e.toNat

/-- The denominator's share of a power of two. -/
def pow2Down (e : Int) : Nat := 2 ^ (-e).toNat

/-- floor(log2 (num / den * 2^e)) for positive num and den. -/
def floorLog2 (num den : Nat) (e : Int) : Int :=
  let k : Int := (Nat.log2 num : Int) - (Nat.log2 den : Int)
  if num * pow2Down k < den * pow2Up k then e + k - 1 else e + k

/-- R343's inc: whether the kept part goes up by one. `r / d` is the fraction of it that is lost. -/
def roundsUp (rn : BitVec 2) (neg : Bool) (n r d : Nat) : Bool :=
  match rn.toNat with
  | 0 => decide (d < 2 * r) || (decide (2 * r = d) && decide (n % 2 = 1))
  | 1 => false
  | 2 => decide (r ≠ 0) && !neg
  | _ => decide (r ≠ 0) && neg

/-- What a magnitude is cut to at weight 2^q: the kept integer after rounding, whether anything was lost, whether it went up. -/
structure Rounded where
  kept : Nat
  inexact : Bool
  up : Bool
deriving DecidableEq, Repr

/-- The cut of num / den * 2^e at weight 2^q (R343). -/
def roundAt (rn : BitVec 2) (neg : Bool) (num den : Nat) (e q : Int) : Rounded :=
  let a := num * pow2Up (e - q)
  let b := den * pow2Down (e - q)
  let up := roundsUp rn neg (a / b) (a % b) b
  { kept := a / b + bitNat up, inexact := decide (a % b ≠ 0), up := up }

/-- The binary64 pattern of `kept * 2^q`, which holds it exactly: at most 53 significant bits, none below 2^-1074, below 2^1024. -/
def packDouble (neg : Bool) (kept : Nat) (q : Int) : DWord :=
  if kept = 0 then zero neg
  else
    let top : Int := q + (Nat.log2 kept : Int)
    if top < -1022 then signBit neg ||| BitVec.ofNat 64 (kept * pow2Up (q + 1074))
    else
      let frac := kept * 2 ^ 52 / 2 ^ Nat.log2 kept - 2 ^ 52
      signBit neg ||| BitVec.ofNat 64 ((top + 1023).toNat * 2 ^ 52 + frac)

/-- What an arithmetic operation delivers: the result, the exception bits it sets, FR and FI. -/
structure FpResult where
  value : DWord
  flags : Word := 0
  fr : Bool := false
  fi : Bool := false
deriving DecidableEq, Repr

/-- R344: the result of an overflow. -/
def overflowValue (fmt : FpFormat) (rn : BitVec 2) (neg : Bool) : DWord :=
  let toInfinity : Bool :=
    match rn.toNat with
    | 0 => true
    | 1 => false
    | 2 => !neg
    | _ => neg
  if toInfinity then infinity neg else signBit neg ||| fmt.largest

/-- R343: the one rounding of the exact non-zero value (-1)^neg * num / den * 2^e, with R344 and R345. -/
def roundTo (fmt : FpFormat) (rn : BitVec 2) (neg : Bool) (num den : Nat) (e : Int) : FpResult :=
  let top := floorLog2 num den e
  let q := max top fmt.emin - (fmt.precision - 1)
  let cut := roundAt rn neg num den e q
  if cut.kept * pow2Up q ≥ 2 ^ (fmt.emax + 1).toNat * pow2Down q then
    let v := overflowValue fmt rn neg
    { value := v, flags := fpOX ||| fpXX, fr := isInf v, fi := true }
  else
    { value := packDouble neg cut.kept q
      flags := (if cut.inexact then fpXX else 0) ||| (if decide (top < fmt.emin) && cut.inexact then fpUX else 0)
      fr := cut.up
      fi := cut.inexact }

/-! ## The class of a result (R348) -/

/-- Whether a finite non-zero binary64 pattern is a denormal of the format. -/
def isDenormalOf (fmt : FpFormat) (d : DWord) : Bool :=
  match fmt with
  | .double => expOf d == 0
  | .single => decide (expOf d < 897)

/-- FPRF of a result (R348). -/
def fprfOf (fmt : FpFormat) (d : DWord) : BitVec 5 :=
  if isNaN d then 0b10001
  else if isInf d then (if signOf d then 0b01001 else 0b00101)
  else if isZero d then (if signOf d then 0b10010 else 0b00010)
  else if isDenormalOf fmt d then (if signOf d then 0b11000 else 0b10100)
  else (if signOf d then 0b01000 else 0b00100)

/-! ## NaN operands and invalid operations (R346) -/

/-- R346 (a): VXSNAN where an operand is an SNaN. -/
def snanFlag (ops : List DWord) : Word := if ops.any isSNaN then fpVXSNAN else 0

/-- R346 (b): the first NaN among the operands, made quiet. -/
def firstNaN (ops : List DWord) : Option DWord := (ops.find? isNaN).map quiet

/-- R346 (b): the NaN result where an operand is one, what follows otherwise. -/
def withNaNs (ops : List DWord) (otherwise : FpResult) : FpResult :=
  match firstNaN ops with
  | some v => { value := v, flags := snanFlag ops }
  | none => otherwise

/-- R346 (c): an invalid operation. -/
def invalidResult (flag : Word) : FpResult := { value := defaultNaN, flags := flag }

/-- An exact special value (R352 step 2). -/
def exactResult (v : DWord) : FpResult := { value := v }

/-! ## Sums (R347, R353, R361) -/

/-- The exact sum of two signed magnitudes over powers of two, rounded; `zeroNeg` is the sign of the sum of two zeros of one
sign (R347). -/
def roundSum (fmt : FpFormat) (rn : BitVec 2) (neg1 : Bool) (m1 : Nat) (e1 : Int) (neg2 : Bool) (m2 : Nat) (e2 : Int) :
    FpResult :=
  let e := min e1 e2
  let i1 : Int := (m1 * pow2Up (e1 - e) : Nat)
  let i2 : Int := (m2 * pow2Up (e2 - e) : Nat)
  let sum : Int := (if neg1 then -i1 else i1) + (if neg2 then -i2 else i2)
  if sum = 0 then
    exactResult (zero (if m1 = 0 ∧ m2 = 0 ∧ neg1 = neg2 then neg1 else decide (rn = 3)))
  else roundTo fmt rn (decide (sum < 0)) sum.natAbs 1 e

/-- a + b where `flip` inverts the sign of b: R353 to R356, after R346 (b). -/
def fpAdd (fmt : FpFormat) (rn : BitVec 2) (flip : Bool) (a b : DWord) : FpResult :=
  withNaNs [a, b] <|
    let sb := signOf b ^^ flip
    if isInf a then
      if isInf b && (signOf a ^^ sb) then invalidResult fpVXISI else exactResult a
    else if isInf b then exactResult (infinity sb)
    else roundSum fmt rn (signOf a) (magOf a) (scaleOf a) sb (magOf b) (scaleOf b)

/-! ## Product and quotient (R357 to R360) -/

/-- a * c. -/
def fpMul (fmt : FpFormat) (rn : BitVec 2) (a c : DWord) : FpResult :=
  withNaNs [a, c] <|
    let s := signOf a ^^ signOf c
    if (isInf a && isZero c) || (isZero a && isInf c) then invalidResult fpVXIMZ
    else if isInf a || isInf c then exactResult (infinity s)
    else if isZero a || isZero c then exactResult (zero s)
    else roundTo fmt rn s (magOf a * magOf c) 1 (scaleOf a + scaleOf c)

/-- a / b. -/
def fpDiv (fmt : FpFormat) (rn : BitVec 2) (a b : DWord) : FpResult :=
  withNaNs [a, b] <|
    let s := signOf a ^^ signOf b
    if isInf a && isInf b then invalidResult fpVXIDI
    else if isZero a && isZero b then invalidResult fpVXZDZ
    else if isInf a then exactResult (infinity s)
    else if isInf b then exactResult (zero s)
    else if isZero b then { value := infinity s, flags := fpZX }
    else if isZero a then exactResult (zero s)
    else roundTo fmt rn s (magOf a) (magOf b) (scaleOf a - scaleOf b)

/-! ## Fused multiply-add (R361 to R368) -/

/-- a * c + b with one rounding, the sign of b inverted by `flip`. The operands are ordered frA, frB, frC for R346 (b). -/
def fpMulAdd (fmt : FpFormat) (rn : BitVec 2) (flip : Bool) (a c b : DWord) : FpResult :=
  withNaNs [a, b, c] <|
    let sp := signOf a ^^ signOf c
    let sb := signOf b ^^ flip
    if (isInf a && isZero c) || (isZero a && isInf c) then invalidResult fpVXIMZ
    else if isInf a || isInf c then
      if isInf b && (sp ^^ sb) then invalidResult fpVXISI else exactResult (infinity sp)
    else if isInf b then exactResult (infinity sb)
    else roundSum fmt rn sp (magOf a * magOf c) (scaleOf a + scaleOf c) sb (magOf b) (scaleOf b)

/-- The negation of `fnmadd` and `fnmsub`: after rounding, and never of a NaN (R346, R365). -/
def negateResult (r : FpResult) : FpResult := if isNaN r.value then r else { r with value := negate r.value }

/-! ## Round to single (R371) -/

/-- `frsp`. -/
def fpRoundToSingle (rn : BitVec 2) (b : DWord) : FpResult :=
  if isNaN b then { value := quiet b &&& 0xFFFFFFFFE0000000, flags := snanFlag [b] }
  else if isInf b || isZero b then exactResult b
  else roundTo .single rn (signOf b) (magOf b) 1 (scaleOf b)

/-! ## Estimates (R369, R370) -/

/-- Whether a pattern is a finite non-zero value of binary32. -/
def isSingleValue (d : DWord) : Bool :=
  !isNaN d && !isInf d && !isZero d && decide ((roundTo .single 1 (signOf d) (magOf d) 1 (scaleOf d)).value = d)

/-- The product of two magnitudes as a fraction. -/
def productParts (v b : DWord) : Nat × Nat :=
  let x := scaleOf v + scaleOf b
  (magOf v * magOf b * pow2Up x, pow2Down x)

/-- R369's bound: v is a binary32 value of b's sign within relative error 1/256 of 1/b. -/
def fresInBound (v b : DWord) : Bool :=
  let (p, d) := productParts v b
  isSingleValue v && signOf v == signOf b && decide (255 * d ≤ 256 * p) && decide (256 * p ≤ 257 * d)

/-- FRES_EST on a finite non-zero operand (P8; log 14). -/
def fresValue (mode : Estimate) (rn : BitVec 2) (b : DWord) : DWord :=
  let default := (roundTo .single rn (signOf b) 1 (magOf b) (-(scaleOf b))).value
  match mode with
  | .correctlyRounded => default
  | .implementation => if fresInBound (Config.fresEst b rn) b then Config.fresEst b rn else default

/-- `fres`: FR and FI are 0 and XX is not written; OX and UX are those of the rounded reciprocal (R369). -/
def fpRes (mode : Estimate) (rn : BitVec 2) (b : DWord) : FpResult :=
  withNaNs [b] <|
    if isZero b then { value := infinity (signOf b), flags := fpZX }
    else if isInf b then exactResult (zero (signOf b))
    else
      { value := fresValue mode rn b
        flags := (roundTo .single rn (signOf b) 1 (magOf b) (-(scaleOf b))).flags &&& (fpOX ||| fpUX) }

/-- The integer part of a square root, bit by bit from `2^bits` down. -/
def sqrtFrom (n : Nat) : Nat → Nat → Nat
  | 0, r => r
  | bits + 1, r => sqrtFrom n bits (if (r + 2 ^ bits) * (r + 2 ^ bits) ≤ n then r + 2 ^ bits else r)

/-- 1 / sqrt(m * 2^e) rounded to the nearest binary64, ties to even. The root is taken to some sixty bits, and a lost part is
kept as half a unit below them, which decides every rounding as the exact root would. -/
def recipSqrt (m : Nat) (e : Int) : DWord :=
  let k : Int := 60 + ((Nat.log2 m : Int) + e) / 2
  let n := 2 ^ (2 * k - e).toNat
  let r := sqrtFrom (n / m) 64 0
  (roundTo .double 0 false (2 * r + bitNat (decide (r * r * m ≠ n))) 1 (-k - 1)).value

/-- R370's bound: v is a positive finite value within relative error 1/32 of 1/sqrt(b). -/
def frsqrteInBound (v b : DWord) : Bool :=
  let x := 2 * scaleOf v + scaleOf b
  let p := magOf v * magOf v * magOf b * pow2Up x
  !isNaN v && !isInf v && !isZero v && !signOf v &&
    decide (961 * pow2Down x ≤ 1024 * p) && decide (1024 * p ≤ 1089 * pow2Down x)

/-- FRSQRTE_EST on a positive finite operand (P9; log 15). -/
def frsqrteValue (mode : Estimate) (b : DWord) : DWord :=
  match mode with
  | .correctlyRounded => recipSqrt (magOf b) (scaleOf b)
  | .implementation =>
    if frsqrteInBound (Config.frsqrteEst b) b then Config.frsqrteEst b else recipSqrt (magOf b) (scaleOf b)

/-- `frsqrte` (R370). -/
def fpRsqrte (mode : Estimate) (b : DWord) : FpResult :=
  withNaNs [b] <|
    if isZero b then { value := infinity (signOf b), flags := fpZX }
    else if signOf b then invalidResult fpVXSQRT
    else if isInf b then exactResult (zero false)
    else exactResult (frsqrteValue mode b)

/-! ## Convert to integer word (R372, R373) -/

/-- What `fctiw` delivers: the integer word, the exception bits, FR and FI. -/
structure IntResult where
  word : Word
  flags : Word := 0
  fr : Bool := false
  fi : Bool := false
deriving DecidableEq, Repr

/-- `fctiw` under a rounding mode (R372). -/
def fpToInt (rn : BitVec 2) (b : DWord) : IntResult :=
  if isNaN b then { word := 0x80000000, flags := fpVXCVI ||| snanFlag [b] }
  else if isInf b then { word := if signOf b then 0x80000000 else 0x7FFFFFFF, flags := fpVXCVI }
  else
    let cut := roundAt rn (signOf b) (magOf b) 1 (scaleOf b) 0
    let v : Int := if signOf b then -(cut.kept : Int) else cut.kept
    if v > 2 ^ 31 - 1 then { word := 0x7FFFFFFF, flags := fpVXCVI }
    else if v < -(2 ^ 31) then { word := 0x80000000, flags := fpVXCVI }
    else { word := BitVec.ofInt 32 v, flags := if cut.inexact then fpXX else 0, fr := cut.up, fi := cut.inexact }

/-! ## Compares (R374) -/

/-- A number that orders the patterns that are no NaN as their values: -0 and +0 alike, infinities at the ends. -/
def orderKey (d : DWord) : Int :=
  let mag : Int := ((d &&& 0x7FFFFFFFFFFFFFFF).toNat : Int)
  if signOf d then -mag else mag

/-- The four bits of a floating-point compare: LT, GT, EQ, unordered (R374). -/
def fpCompare (a b : DWord) : BitVec 4 :=
  if isNaN a || isNaN b then 0b0001
  else if orderKey a < orderKey b then 0b1000
  else if orderKey b < orderKey a then 0b0100
  else 0b0010

/-- The flag of `fcmpo` beside VXSNAN: an SNaN with VE clear, or no SNaN and a QNaN (R375). -/
def orderedFlag (ve : Bool) (a b : DWord) : Word :=
  if isSNaN a || isSNaN b then (if ve then 0 else fpVXVC)
  else if isNaN a || isNaN b then fpVXVC
  else 0

/-! ## Conversions of the single loads and stores (46_floating_point_load_store.md R421, R422) -/

/-- DOUBLE(w) (R421). -/
def toDouble (w : Word) : DWord :=
  let s := signBit (w.getMsbD 0)
  let e := (w.extractLsb' 23 8).toNat
  let f := w.extractLsb' 0 23
  if e = 255 then s ||| 0x7FF0000000000000 ||| (f.setWidth 64 <<< 29)
  else if e ≠ 0 then s ||| (BitVec.ofNat 64 (e + 896) <<< 52) ||| (f.setWidth 64 <<< 29)
  else if f = 0 then s
  else
    let k := 22 - Nat.log2 f.toNat
    s ||| (BitVec.ofNat 64 (1023 - 127 - k) <<< 52) ||| ((f <<< (k + 1)).setWidth 64 <<< 29)

/-- SINGLE(d) (R422). -/
def toSingle (d : DWord) : Word :=
  let s : Word := if signOf d then 0x80000000 else 0
  let e := expOf d
  if e > 896 ∨ d &&& 0x7FFFFFFFFFFFFFFF = 0 then
    s ||| (if d.getMsbD 1 then 0x40000000 else 0) ||| ((d.extractLsb' 29 30).setWidth 32)
  else if 874 ≤ e then
    s ||| BitVec.ofNat 32 ((2 ^ 52 + fracOf d) / 2 ^ (897 - e) / 2 ^ 29)
  else s

/-! ## How a floating-point instruction ends (R349, R352) -/

/-- R352 step 5: the result, the commit with FR, FI and the class of the result, the record. -/
def finishArith (fmt : FpFormat) (frd : FprNum) (r : FpResult) (rc : Bool) (s : State) : Result :=
  finishFp frd r.value
    (commitFpscr s.fpscr r.flags fun w => putFprf (putFrFi w r.fr r.fi) (fprfOf fmt r.value)) rc s

/-- The end of `fctiw` and `fctiwz`: FP_HIGH_WORD over the integer, FR and FI written, FPRF left (R372). -/
def finishToInt (frd : FprNum) (r : IntResult) (rc : Bool) (s : State) : Result :=
  finishFp frd (s.params.fpHighWord ++ r.word) (commitFpscr s.fpscr r.flags fun w => putFrFi w r.fr r.fi) rc s

/-- The end of the compares: the CR field, FPCC, the flags (R374). -/
def finishFpCompare (crfD : CrField) (c : BitVec 4) (flags : Word) (s : State) : Result :=
  complete ((s.setFpscr (commitFpscr s.fpscr flags fun w => putFpcc w c)).setCrField crfD c)

end Sys2Proof.Machine
end

