-- ==== Sys2Proof/Machine/FloatArith.lean ====
section
/-! DEFINITION. The floating-point arithmetic, conversion, compare, move and status instructions
(45_floating_point_arithmetic.md R340 to R386). In the A form the multiplier is FRC and the addend or divisor FRB (R340). A
single-precision instruction uses its operands at full width (R386). -/

namespace Sys2Proof.Machine

/-! ## Add, subtract, multiply, divide -/

/-- `fadd` (R353). -/
def execFadd (frd fra frb : FprNum) (rc : Bool) (s : State) : Result :=
  finishArith .double frd (fpAdd .double (roundingMode s.fpscr) false (s.fpr fra) (s.fpr frb)) rc s

/-- `fsub` (R355). -/
def execFsub (frd fra frb : FprNum) (rc : Bool) (s : State) : Result :=
  finishArith .double frd (fpAdd .double (roundingMode s.fpscr) true (s.fpr fra) (s.fpr frb)) rc s

/-- `fmul` (R357). -/
def execFmul (frd fra frc : FprNum) (rc : Bool) (s : State) : Result :=
  finishArith .double frd (fpMul .double (roundingMode s.fpscr) (s.fpr fra) (s.fpr frc)) rc s

/-- `fdiv` (R359). -/
def execFdiv (frd fra frb : FprNum) (rc : Bool) (s : State) : Result :=
  finishArith .double frd (fpDiv .double (roundingMode s.fpscr) (s.fpr fra) (s.fpr frb)) rc s

/-- `fadds` (R354). -/
def execFadds (frd fra frb : FprNum) (rc : Bool) (s : State) : Result :=
  finishArith .single frd (fpAdd .single (roundingMode s.fpscr) false (s.fpr fra) (s.fpr frb)) rc s

/-- `fsubs` (R356). -/
def execFsubs (frd fra frb : FprNum) (rc : Bool) (s : State) : Result :=
  finishArith .single frd (fpAdd .single (roundingMode s.fpscr) true (s.fpr fra) (s.fpr frb)) rc s

/-- `fmuls` (R358). -/
def execFmuls (frd fra frc : FprNum) (rc : Bool) (s : State) : Result :=
  finishArith .single frd (fpMul .single (roundingMode s.fpscr) (s.fpr fra) (s.fpr frc)) rc s

/-- `fdivs` (R360). -/
def execFdivs (frd fra frb : FprNum) (rc : Bool) (s : State) : Result :=
  finishArith .single frd (fpDiv .single (roundingMode s.fpscr) (s.fpr fra) (s.fpr frb)) rc s

/-! ## Fused multiply-add -/

/-- `fmadd` (R361). -/
def execFmadd (frd fra frb frc : FprNum) (rc : Bool) (s : State) : Result :=
  finishArith .double frd (fpMulAdd .double (roundingMode s.fpscr) false (s.fpr fra) (s.fpr frc) (s.fpr frb)) rc s

/-- `fmsub` (R363). -/
def execFmsub (frd fra frb frc : FprNum) (rc : Bool) (s : State) : Result :=
  finishArith .double frd (fpMulAdd .double (roundingMode s.fpscr) true (s.fpr fra) (s.fpr frc) (s.fpr frb)) rc s

/-- `fnmadd` (R365). -/
def execFnmadd (frd fra frb frc : FprNum) (rc : Bool) (s : State) : Result :=
  finishArith .double frd (negateResult (fpMulAdd .double (roundingMode s.fpscr) false (s.fpr fra) (s.fpr frc) (s.fpr frb))) rc s

/-- `fnmsub` (R367). -/
def execFnmsub (frd fra frb frc : FprNum) (rc : Bool) (s : State) : Result :=
  finishArith .double frd (negateResult (fpMulAdd .double (roundingMode s.fpscr) true (s.fpr fra) (s.fpr frc) (s.fpr frb))) rc s

/-- `fmadds` (R362). -/
def execFmadds (frd fra frb frc : FprNum) (rc : Bool) (s : State) : Result :=
  finishArith .single frd (fpMulAdd .single (roundingMode s.fpscr) false (s.fpr fra) (s.fpr frc) (s.fpr frb)) rc s

/-- `fmsubs` (R364). -/
def execFmsubs (frd fra frb frc : FprNum) (rc : Bool) (s : State) : Result :=
  finishArith .single frd (fpMulAdd .single (roundingMode s.fpscr) true (s.fpr fra) (s.fpr frc) (s.fpr frb)) rc s

/-- `fnmadds` (R366). -/
def execFnmadds (frd fra frb frc : FprNum) (rc : Bool) (s : State) : Result :=
  finishArith .single frd (negateResult (fpMulAdd .single (roundingMode s.fpscr) false (s.fpr fra) (s.fpr frc) (s.fpr frb))) rc s

/-- `fnmsubs` (R368). -/
def execFnmsubs (frd fra frb frc : FprNum) (rc : Bool) (s : State) : Result :=
  finishArith .single frd (negateResult (fpMulAdd .single (roundingMode s.fpscr) true (s.fpr fra) (s.fpr frc) (s.fpr frb))) rc s

/-! ## Estimates, rounding, conversion -/

/-- `fres` (R369). -/
def execFres (frd frb : FprNum) (rc : Bool) (s : State) : Result :=
  finishArith .single frd (fpRes s.params.fresMode (roundingMode s.fpscr) (s.fpr frb)) rc s

/-- `frsqrte` (R370). -/
def execFrsqrte (frd frb : FprNum) (rc : Bool) (s : State) : Result :=
  finishArith .double frd (fpRsqrte s.params.frsqrteMode (s.fpr frb)) rc s

/-- `frsp` (R371). -/
def execFrsp (frd frb : FprNum) (rc : Bool) (s : State) : Result :=
  finishArith .single frd (fpRoundToSingle (roundingMode s.fpscr) (s.fpr frb)) rc s

/-- `fctiw` (R372). -/
def execFctiw (frd frb : FprNum) (rc : Bool) (s : State) : Result :=
  finishToInt frd (fpToInt (roundingMode s.fpscr) (s.fpr frb)) rc s

/-- `fctiwz` (R373): the mode is 1, toward zero, whatever RN holds. -/
def execFctiwz (frd frb : FprNum) (rc : Bool) (s : State) : Result :=
  finishToInt frd (fpToInt 1 (s.fpr frb)) rc s

/-! ## Compares -/

/-- `fcmpu` (R374). -/
def execFcmpu (crfD : CrField) (fra frb : FprNum) (s : State) : Result :=
  finishFpCompare crfD (fpCompare (s.fpr fra) (s.fpr frb)) (snanFlag [s.fpr fra, s.fpr frb]) s

/-- `fcmpo` (R375). -/
def execFcmpo (crfD : CrField) (fra frb : FprNum) (s : State) : Result :=
  finishFpCompare crfD (fpCompare (s.fpr fra) (s.fpr frb))
    (snanFlag [s.fpr fra, s.fpr frb] ||| orderedFlag (s.fpscr.getMsbD 24) (s.fpr fra) (s.fpr frb)) s

/-! ## Moves and sign manipulation: 64 bits copied, FPSCR not written -/

/-- `fmr` (R376). -/
def execFmr (frd frb : FprNum) (rc : Bool) (s : State) : Result := finishFpMove frd (s.fpr frb) rc s

/-- `fneg` (R377). -/
def execFneg (frd frb : FprNum) (rc : Bool) (s : State) : Result := finishFpMove frd (negate (s.fpr frb)) rc s

/-- `fabs` (R378). -/
def execFabs (frd frb : FprNum) (rc : Bool) (s : State) : Result :=
  finishFpMove frd (s.fpr frb &&& 0x7FFFFFFFFFFFFFFF) rc s

/-- `fnabs` (R379). -/
def execFnabs (frd frb : FprNum) (rc : Bool) (s : State) : Result :=
  finishFpMove frd (s.fpr frb ||| 0x8000000000000000) rc s

/-! ## FPSCR instructions -/

/-- `mffs` (R380). -/
def execMffs (frd : FprNum) (rc : Bool) (s : State) : Result :=
  finishFpMove frd (s.params.fpHighWord ++ s.fpscr) rc s

/-- The exception bits, and FX: what `mcrfs` clears of the field it copies (R381). -/
def copiedBits (crfS : CrField) : Word := fieldMask crfS &&& (fpExceptionBits ||| fpFX)

/-- `mcrfs` (R381): with crfS 0 it clears FX, as R381 says and the vector `mcrfs cr0,0` of 96_test_vectors_memory_fp.md shows; how R37's
"it never clears FX" is read beside that is log 26 (DEDUCED). -/
def execMcrfs (crfD crfS : CrField) (s : State) : Result :=
  complete ((s.setCrField crfD (getField s.fpscr crfS)).setFpscr (deriveFpscr (s.fpscr &&& ~~~ (copiedBits crfS))))

/-- `mtfsfi` (R382). -/
def execMtfsfi (crfD : CrField) (imm : BitVec 4) (rc : Bool) (s : State) : Result :=
  finishFpscr (replaceFpscr s.fpscr (fieldMask crfD) (putField 0 crfD imm)) rc s

/-- `mtfsf` (R383): from the low word of frB. -/
def execMtfsf (fm : BitVec 8) (frb : FprNum) (rc : Bool) (s : State) : Result :=
  finishFpscr (replaceFpscr s.fpscr (fieldsMask fm) (lowWord (s.fpr frb))) rc s

/-- `mtfsb0` (R384): bits 1 and 2 are not written. Of bit 0 it clears FX, as R384 says; how R37's "it never
clears FX" is read beside that is log 26 (DEDUCED). -/
def execMtfsb0 (crbD : CrBit) (rc : Bool) (s : State) : Result :=
  finishFpscr (replaceFpscr s.fpscr (bitMask crbD) 0) rc s

/-- `mtfsb1` (R385): as a flag of the commit, so an exception bit that was 0 sets FX; bits 1 and 2 are not written. -/
def execMtfsb1 (crbD : CrBit) (rc : Bool) (s : State) : Result :=
  finishFpscr (commitFpscr s.fpscr (bitMask crbD &&& 0x9FFFFFFF) id) rc s

end Sys2Proof.Machine
end

