-- ==== Sys2Proof/Machine/FloatLoadStore.lean ====
section
/-! DEFINITION. The floating-point loads and stores (46_floating_point_load_store.md R420 to R439). None reads or writes FPSCR (R420). -/

namespace Sys2Proof.Machine

/-- `lfs` (R423). -/
def execLfs (frd : FprNum) (ra : GprNum) (d : BitVec 16) (s : State) : Result :=
  loadFpr .word (fun v => toDouble (lowWord v)) frd (s.eaD ra d) none s

/-- `lfsu` (R424). -/
def execLfsu (frd : FprNum) (ra : GprNum) (d : BitVec 16) (s : State) : Result :=
  loadFpr .word (fun v => toDouble (lowWord v)) frd (s.eaDU ra d) (some ra) s

/-- `lfsx` (R425). -/
def execLfsx (frd : FprNum) (ra rb : GprNum) (s : State) : Result :=
  loadFpr .word (fun v => toDouble (lowWord v)) frd (s.eaX ra rb) none s

/-- `lfsux` (R426). -/
def execLfsux (frd : FprNum) (ra rb : GprNum) (s : State) : Result :=
  loadFpr .word (fun v => toDouble (lowWord v)) frd (s.eaXU ra rb) (some ra) s

/-- `lfd` (R427). -/
def execLfd (frd : FprNum) (ra : GprNum) (d : BitVec 16) (s : State) : Result :=
  loadFpr .double id frd (s.eaD ra d) none s

/-- `lfdu` (R428). -/
def execLfdu (frd : FprNum) (ra : GprNum) (d : BitVec 16) (s : State) : Result :=
  loadFpr .double id frd (s.eaDU ra d) (some ra) s

/-- `lfdx` (R429). -/
def execLfdx (frd : FprNum) (ra rb : GprNum) (s : State) : Result :=
  loadFpr .double id frd (s.eaX ra rb) none s

/-- `lfdux` (R430). -/
def execLfdux (frd : FprNum) (ra rb : GprNum) (s : State) : Result :=
  loadFpr .double id frd (s.eaXU ra rb) (some ra) s

/-- `stfs` (R431). -/
def execStfs (frs : FprNum) (ra : GprNum) (d : BitVec 16) (s : State) : Result :=
  storeValue .word (asPort (toSingle (s.fpr frs))) (s.eaD ra d) none s

/-- `stfsu` (R432). -/
def execStfsu (frs : FprNum) (ra : GprNum) (d : BitVec 16) (s : State) : Result :=
  storeValue .word (asPort (toSingle (s.fpr frs))) (s.eaDU ra d) (some ra) s

/-- `stfsx` (R433). -/
def execStfsx (frs : FprNum) (ra rb : GprNum) (s : State) : Result :=
  storeValue .word (asPort (toSingle (s.fpr frs))) (s.eaX ra rb) none s

/-- `stfsux` (R434). -/
def execStfsux (frs : FprNum) (ra rb : GprNum) (s : State) : Result :=
  storeValue .word (asPort (toSingle (s.fpr frs))) (s.eaXU ra rb) (some ra) s

/-- `stfd` (R435). -/
def execStfd (frs : FprNum) (ra : GprNum) (d : BitVec 16) (s : State) : Result :=
  storeValue .double (s.fpr frs) (s.eaD ra d) none s

/-- `stfdu` (R436). -/
def execStfdu (frs : FprNum) (ra : GprNum) (d : BitVec 16) (s : State) : Result :=
  storeValue .double (s.fpr frs) (s.eaDU ra d) (some ra) s

/-- `stfdx` (R437). -/
def execStfdx (frs : FprNum) (ra rb : GprNum) (s : State) : Result :=
  storeValue .double (s.fpr frs) (s.eaX ra rb) none s

/-- `stfdux` (R438). -/
def execStfdux (frs : FprNum) (ra rb : GprNum) (s : State) : Result :=
  storeValue .double (s.fpr frs) (s.eaXU ra rb) (some ra) s

/-- `stfiwx` (R439): the low word of the register, unconverted. -/
def execStfiwx (frs : FprNum) (ra rb : GprNum) (s : State) : Result :=
  storeValue .word (asPort (lowWord (s.fpr frs))) (s.eaX ra rb) none s

end Sys2Proof.Machine
end

