-- ==== Sys2Proof/Machine/LoadStore.lean ====
section
/-! DEFINITION. The fixed-point loads and stores (43_fixed_point_load_store.md R250 to R300). A load zero-extends or sign-extends
into all of RD; a store sends the low bytes of RS (R252). -/

namespace Sys2Proof.Machine

/-! ## Loads -/

/-- `lbz` (R253). -/
def execLbz (rd ra : GprNum) (d : BitVec 16) (s : State) : Result :=
  loadGpr .byte lowWord rd (s.eaD ra d) none s

/-- `lbzu` (R254). -/
def execLbzu (rd ra : GprNum) (d : BitVec 16) (s : State) : Result :=
  loadGpr .byte lowWord rd (s.eaDU ra d) (some ra) s

/-- `lbzx` (R255). -/
def execLbzx (rd ra rb : GprNum) (s : State) : Result :=
  loadGpr .byte lowWord rd (s.eaX ra rb) none s

/-- `lbzux` (R256). -/
def execLbzux (rd ra rb : GprNum) (s : State) : Result :=
  loadGpr .byte lowWord rd (s.eaXU ra rb) (some ra) s

/-- `lhz` (R257). -/
def execLhz (rd ra : GprNum) (d : BitVec 16) (s : State) : Result :=
  loadGpr .half lowWord rd (s.eaD ra d) none s

/-- `lhzu` (R258). -/
def execLhzu (rd ra : GprNum) (d : BitVec 16) (s : State) : Result :=
  loadGpr .half lowWord rd (s.eaDU ra d) (some ra) s

/-- `lhzx` (R259). -/
def execLhzx (rd ra rb : GprNum) (s : State) : Result :=
  loadGpr .half lowWord rd (s.eaX ra rb) none s

/-- `lhzux` (R260). -/
def execLhzux (rd ra rb : GprNum) (s : State) : Result :=
  loadGpr .half lowWord rd (s.eaXU ra rb) (some ra) s

/-- `lha` (R261). -/
def execLha (rd ra : GprNum) (d : BitVec 16) (s : State) : Result :=
  loadGpr .half signedHalf rd (s.eaD ra d) none s

/-- `lhau` (R262). -/
def execLhau (rd ra : GprNum) (d : BitVec 16) (s : State) : Result :=
  loadGpr .half signedHalf rd (s.eaDU ra d) (some ra) s

/-- `lhax` (R263). -/
def execLhax (rd ra rb : GprNum) (s : State) : Result :=
  loadGpr .half signedHalf rd (s.eaX ra rb) none s

/-- `lhaux` (R264). -/
def execLhaux (rd ra rb : GprNum) (s : State) : Result :=
  loadGpr .half signedHalf rd (s.eaXU ra rb) (some ra) s

/-- `lwz` (R265). -/
def execLwz (rd ra : GprNum) (d : BitVec 16) (s : State) : Result :=
  loadGpr .word lowWord rd (s.eaD ra d) none s

/-- `lwzu` (R266). -/
def execLwzu (rd ra : GprNum) (d : BitVec 16) (s : State) : Result :=
  loadGpr .word lowWord rd (s.eaDU ra d) (some ra) s

/-- `lwzx` (R267). -/
def execLwzx (rd ra rb : GprNum) (s : State) : Result :=
  loadGpr .word lowWord rd (s.eaX ra rb) none s

/-- `lwzux` (R268). -/
def execLwzux (rd ra rb : GprNum) (s : State) : Result :=
  loadGpr .word lowWord rd (s.eaXU ra rb) (some ra) s

/-! ## Stores -/

/-- `stb` (R269). -/
def execStb (rs ra : GprNum) (d : BitVec 16) (s : State) : Result :=
  storeValue .byte (asPort (s.gpr rs)) (s.eaD ra d) none s

/-- `stbu` (R270). -/
def execStbu (rs ra : GprNum) (d : BitVec 16) (s : State) : Result :=
  storeValue .byte (asPort (s.gpr rs)) (s.eaDU ra d) (some ra) s

/-- `stbx` (R271). -/
def execStbx (rs ra rb : GprNum) (s : State) : Result :=
  storeValue .byte (asPort (s.gpr rs)) (s.eaX ra rb) none s

/-- `stbux` (R272). -/
def execStbux (rs ra rb : GprNum) (s : State) : Result :=
  storeValue .byte (asPort (s.gpr rs)) (s.eaXU ra rb) (some ra) s

/-- `sth` (R273). -/
def execSth (rs ra : GprNum) (d : BitVec 16) (s : State) : Result :=
  storeValue .half (asPort (s.gpr rs)) (s.eaD ra d) none s

/-- `sthu` (R274). -/
def execSthu (rs ra : GprNum) (d : BitVec 16) (s : State) : Result :=
  storeValue .half (asPort (s.gpr rs)) (s.eaDU ra d) (some ra) s

/-- `sthx` (R275). -/
def execSthx (rs ra rb : GprNum) (s : State) : Result :=
  storeValue .half (asPort (s.gpr rs)) (s.eaX ra rb) none s

/-- `sthux` (R276). -/
def execSthux (rs ra rb : GprNum) (s : State) : Result :=
  storeValue .half (asPort (s.gpr rs)) (s.eaXU ra rb) (some ra) s

/-- `stw` (R277). -/
def execStw (rs ra : GprNum) (d : BitVec 16) (s : State) : Result :=
  storeValue .word (asPort (s.gpr rs)) (s.eaD ra d) none s

/-- `stwu` (R278). -/
def execStwu (rs ra : GprNum) (d : BitVec 16) (s : State) : Result :=
  storeValue .word (asPort (s.gpr rs)) (s.eaDU ra d) (some ra) s

/-- `stwx` (R279). -/
def execStwx (rs ra rb : GprNum) (s : State) : Result :=
  storeValue .word (asPort (s.gpr rs)) (s.eaX ra rb) none s

/-- `stwux` (R280). -/
def execStwux (rs ra rb : GprNum) (s : State) : Result :=
  storeValue .word (asPort (s.gpr rs)) (s.eaXU ra rb) (some ra) s

/-! ## Byte-reversed forms -/

/-- `lhbrx` (R290). -/
def execLhbrx (rd ra rb : GprNum) (s : State) : Result :=
  loadGpr .half (fun v => swap16 (lowWord v)) rd (s.eaX ra rb) none s

/-- `lwbrx` (R291). -/
def execLwbrx (rd ra rb : GprNum) (s : State) : Result :=
  loadGpr .word (fun v => swap32 (lowWord v)) rd (s.eaX ra rb) none s

/-- `sthbrx` (R292). -/
def execSthbrx (rs ra rb : GprNum) (s : State) : Result :=
  storeValue .half (asPort (swap16 (s.gpr rs))) (s.eaX ra rb) none s

/-- `stwbrx` (R293). -/
def execStwbrx (rs ra rb : GprNum) (s : State) : Result :=
  storeValue .word (asPort (swap32 (s.gpr rs))) (s.eaX ra rb) none s

/-! ## Multiple words: the alignment of EA is checked before any port call (R69) -/

/-- `lmw` (R294). -/
def execLmw (rd ra : GprNum) (d : BitVec 16) (s : State) : Result :=
  if aligned (s.eaD ra d) .word then
    loadSeq .word (addressesFrom (s.eaD ra d) 4 (32 - rd.toNat)) (List.map lowWord) rd s
  else fail (.alignment .data (s.eaD ra d) .word) s

/-- `stmw` (R295). -/
def execStmw (rs ra : GprNum) (d : BitVec 16) (s : State) : Result :=
  if aligned (s.eaD ra d) .word then storeSeq .word (s.multipleWrites (s.eaD ra d) rs) s
  else fail (.alignment .data (s.eaD ra d) .word) s

/-! ## Strings -/

/-- `lswi` (R296): the EA is (RA|0). -/
def execLswi (rd ra : GprNum) (nb : BitVec 5) (s : State) : Result :=
  loadString (s.raOrZero ra) (immediateCount nb) rd s

/-- `lswx` (R297). -/
def execLswx (rd ra rb : GprNum) (s : State) : Result := loadString (s.eaX ra rb) s.byteCount rd s

/-- `stswi` (R298). -/
def execStswi (rs ra : GprNum) (nb : BitVec 5) (s : State) : Result :=
  storeString (s.raOrZero ra) (immediateCount nb) rs s

/-- `stswx` (R299). -/
def execStswx (rs ra rb : GprNum) (s : State) : Result := storeString (s.eaX ra rb) s.byteCount rs s

end Sys2Proof.Machine
end

