-- ==== Sys2Proof/Machine/Moves.lean ====
section
/-! DEFINITION. The moves to and from special-purpose registers (44_fixed_point_moves.md R320 to R324). A refused number takes the
invalid-instruction path with the raw word, which the encoder rebuilds (40_dispatcher.md R137). -/

namespace Sys2Proof.Machine

/-- `mfspr` (R321). -/
def execMfspr (rd : GprNum) (spr : SprNum) (z31 : BitVec 1) (s : State) : Result :=
  match s.readSpr spr with
  | some v => complete (s.setGpr rd v)
  | none => reportInvalid .mfspr (encode (.mfspr rd spr z31)) s

/-- `mtspr` (R322). -/
def execMtspr (rs : GprNum) (spr : SprNum) (z31 : BitVec 1) (s : State) : Result :=
  match s.writeSpr spr (s.gpr rs) with
  | some t => complete t
  | none => reportInvalid .mtspr (encode (.mtspr rs spr z31)) s

/-- `mftb` (R323). -/
def execMftb (rd : GprNum) (tbr : SprNum) (z31 : BitVec 1) (s : State) : Result :=
  match sprClass tbr with
  | .tbl => complete (s.setGpr rd s.tbl)
  | .tbu => complete (s.setGpr rd s.tbu)
  | _ => reportInvalid .mftb (encode (.mftb rd tbr z31)) s

/-- `mcrxr` (R324). -/
def execMcrxr (crfD : CrField) (s : State) : Result :=
  complete { s.setCrField crfD (getField s.xer 0) with xer := s.xer &&& 0x0FFFFFFF }

end Sys2Proof.Machine
end

