-- ==== Sys2Proof/Machine/SystemUnit.lean ====
section
/-! DEFINITION. The system unit (48_system_unit.md R490 to R504). Barriers and cache hints change nothing but PC; their operands are
not read (section 4: the EA is not computed). -/

namespace Sys2Proof.Machine

/-- `sc` (R491). -/
def execSc (s : State) : Result := systemCallEntry s

/-- `rfi` (R492). -/
def execRfi (s : State) : Result := returnFromInterrupt s

/-- `sync` (R493). -/
def execSync (s : State) : Result := complete s

/-- `isync` (R494). -/
def execIsync (s : State) : Result := complete s

/-- `eieio` (R495). -/
def execEieio (s : State) : Result := complete s

/-- `dcbt` (R496). -/
def execDcbt (s : State) : Result := complete s

/-- `dcbtst` (R497). -/
def execDcbtst (s : State) : Result := complete s

/-- `dcbst` (R498). -/
def execDcbst (s : State) : Result := complete s

/-- `dcbf` (R499). -/
def execDcbf (s : State) : Result := complete s

/-- `dcbz` (R500). -/
def execDcbz (ra rb : GprNum) (s : State) : Result := storeSeq .word (s.blockWrites (s.eaX ra rb)) s

/-- `dcbi` (R501). -/
def execDcbi (s : State) : Result := complete s

/-- `icbi` (R502). -/
def execIcbi (s : State) : Result := complete s

/-- `mfmsr` (R503). -/
def execMfmsr (rd : GprNum) (s : State) : Result := complete (s.setGpr rd s.msr)

/-- `mtmsr` (R504). -/
def execMtmsr (rs : GprNum) (s : State) : Result := complete { s with msr := s.gpr rs }

end Sys2Proof.Machine
end

