-- ==== Sys2Proof/Machine/Unimplemented.lean ====
section
/-! DEFINITION. The ten recognised but unimplemented instructions (49_unimplemented.md R519 to R529). Their effect, the same for
all, is the invalid-instruction path with their own mnemonic as tag (R519); no register they name is read. -/

namespace Sys2Proof.Machine

/-- `twi` (R529). -/
def execTwi (tcond : BitVec 5) (ra : GprNum) (simm : BitVec 16) (s : State) : Result :=
  reportInvalid .twi (encode (.twi tcond ra simm)) s

/-- `tw` (R528). -/
def execTw (tcond : BitVec 5) (ra : GprNum) (rb : GprNum) (z31 : BitVec 1) (s : State) : Result :=
  reportInvalid .tw (encode (.tw tcond ra rb z31)) s

/-- `lwarx` (R520). -/
def execLwarx (rd : GprNum) (ra : GprNum) (rb : GprNum) (z31 : BitVec 1) (s : State) : Result :=
  reportInvalid .lwarx (encode (.lwarx rd ra rb z31)) s

/-- `stwcx.` (R521). -/
def execStwcxDot (rs : GprNum) (ra : GprNum) (rb : GprNum) (z31 : BitVec 1) (s : State) : Result :=
  reportInvalid .stwcxDot (encode (.stwcxDot rs ra rb z31)) s

/-- `mtsr` (R524). -/
def execMtsr (rs : GprNum) (z11 : BitVec 1) (sr : BitVec 4) (z16 : BitVec 5) (z31 : BitVec 1) (s : State) : Result :=
  reportInvalid .mtsr (encode (.mtsr rs z11 sr z16 z31)) s

/-- `mtsrin` (R525). -/
def execMtsrin (rs : GprNum) (z11 : BitVec 5) (rb : GprNum) (z31 : BitVec 1) (s : State) : Result :=
  reportInvalid .mtsrin (encode (.mtsrin rs z11 rb z31)) s

/-- `tlbie` (R526). -/
def execTlbie (z6 : BitVec 5) (z11 : BitVec 5) (rb : GprNum) (z31 : BitVec 1) (s : State) : Result :=
  reportInvalid .tlbie (encode (.tlbie z6 z11 rb z31)) s

/-- `tlbsync` (R527). -/
def execTlbsync (z6 : BitVec 5) (z11 : BitVec 5) (z16 : BitVec 5) (z31 : BitVec 1) (s : State) : Result :=
  reportInvalid .tlbsync (encode (.tlbsync z6 z11 z16 z31)) s

/-- `mfsr` (R522). -/
def execMfsr (rd : GprNum) (z11 : BitVec 1) (sr : BitVec 4) (z16 : BitVec 5) (z31 : BitVec 1) (s : State) : Result :=
  reportInvalid .mfsr (encode (.mfsr rd z11 sr z16 z31)) s

/-- `mfsrin` (R523). -/
def execMfsrin (rd : GprNum) (z11 : BitVec 5) (rb : GprNum) (z31 : BitVec 1) (s : State) : Result :=
  reportInvalid .mfsrin (encode (.mfsrin rd z11 rb z31)) s

end Sys2Proof.Machine
end

