-- ==== Sys2Proof/Machine/Dispatch.lean ====
section
/-! DEFINITION. The meaning of each instruction (40_dispatcher.md R131). A reserved field z<n> that no rule reads is dropped here
(30_encoding.md R103). -/

namespace Sys2Proof.Machine

def exec (i : Instr) (s : State) : Host.Outcome State Fault Refusal :=
  match i with
  | .twi tcond ra simm => Sys2Proof.Machine.execTwi tcond ra simm s
  | .mulli rd ra simm => Sys2Proof.Machine.execMulli rd ra simm s
  | .subfic rd ra simm => Sys2Proof.Machine.execSubfic rd ra simm s
  | .cmpli crfD _ _ ra uimm => Sys2Proof.Machine.execCmpli crfD ra uimm s
  | .cmpi crfD _ _ ra simm => Sys2Proof.Machine.execCmpi crfD ra simm s
  | .addic rd ra simm => Sys2Proof.Machine.execAddic rd ra simm s
  | .addicDot rd ra simm => Sys2Proof.Machine.execAddicDot rd ra simm s
  | .addi rd ra simm => Sys2Proof.Machine.execAddi rd ra simm s
  | .addis rd ra simm => Sys2Proof.Machine.execAddis rd ra simm s
  | .bc bo bi bd aa lk => Sys2Proof.Machine.execBc bo bi bd aa lk s
  | .sc _ => Sys2Proof.Machine.execSc s
  | .b li aa lk => Sys2Proof.Machine.execB li aa lk s
  | .mcrf crfD _ crfS _ _ _ => Sys2Proof.Machine.execMcrf crfD crfS s
  | .bclr bo bi _ lk => Sys2Proof.Machine.execBclr bo bi lk s
  | .crnor crbD crbA crbB _ => Sys2Proof.Machine.execCrnor crbD crbA crbB s
  | .rfi _ _ _ _ => Sys2Proof.Machine.execRfi s
  | .crandc crbD crbA crbB _ => Sys2Proof.Machine.execCrandc crbD crbA crbB s
  | .isync _ _ _ _ => Sys2Proof.Machine.execIsync s
  | .crxor crbD crbA crbB _ => Sys2Proof.Machine.execCrxor crbD crbA crbB s
  | .crnand crbD crbA crbB _ => Sys2Proof.Machine.execCrnand crbD crbA crbB s
  | .crand crbD crbA crbB _ => Sys2Proof.Machine.execCrand crbD crbA crbB s
  | .creqv crbD crbA crbB _ => Sys2Proof.Machine.execCreqv crbD crbA crbB s
  | .crorc crbD crbA crbB _ => Sys2Proof.Machine.execCrorc crbD crbA crbB s
  | .cror crbD crbA crbB _ => Sys2Proof.Machine.execCror crbD crbA crbB s
  | .bcctr bo bi _ lk => Sys2Proof.Machine.execBcctr bo bi lk s
  | .rlwimi rs ra sh mb me rc => Sys2Proof.Machine.execRlwimi rs ra sh mb me rc s
  | .rlwinm rs ra sh mb me rc => Sys2Proof.Machine.execRlwinm rs ra sh mb me rc s
  | .rlwnm rs ra rb mb me rc => Sys2Proof.Machine.execRlwnm rs ra rb mb me rc s
  | .ori rs ra uimm => Sys2Proof.Machine.execOri rs ra uimm s
  | .oris rs ra uimm => Sys2Proof.Machine.execOris rs ra uimm s
  | .xori rs ra uimm => Sys2Proof.Machine.execXori rs ra uimm s
  | .xoris rs ra uimm => Sys2Proof.Machine.execXoris rs ra uimm s
  | .andiDot rs ra uimm => Sys2Proof.Machine.execAndiDot rs ra uimm s
  | .andisDot rs ra uimm => Sys2Proof.Machine.execAndisDot rs ra uimm s
  | .cmp crfD _ _ ra rb _ => Sys2Proof.Machine.execCmp crfD ra rb s
  | .tw tcond ra rb z31 => Sys2Proof.Machine.execTw tcond ra rb z31 s
  | .subfc rd ra rb oe rc => Sys2Proof.Machine.execSubfc rd ra rb oe rc s
  | .addc rd ra rb oe rc => Sys2Proof.Machine.execAddc rd ra rb oe rc s
  | .mulhwu rd ra rb rc => Sys2Proof.Machine.execMulhwu rd ra rb rc s
  | .mfcr rd _ _ _ => Sys2Proof.Machine.execMfcr rd s
  | .lwarx rd ra rb z31 => Sys2Proof.Machine.execLwarx rd ra rb z31 s
  | .lwzx rd ra rb _ => Sys2Proof.Machine.execLwzx rd ra rb s
  | .slw rs ra rb rc => Sys2Proof.Machine.execSlw rs ra rb rc s
  | .cntlzw rs ra _ rc => Sys2Proof.Machine.execCntlzw rs ra rc s
  | .and rs ra rb rc => Sys2Proof.Machine.execAnd rs ra rb rc s
  | .cmpl crfD _ _ ra rb _ => Sys2Proof.Machine.execCmpl crfD ra rb s
  | .subf rd ra rb oe rc => Sys2Proof.Machine.execSubf rd ra rb oe rc s
  | .dcbst _ _ _ _ => Sys2Proof.Machine.execDcbst s
  | .lwzux rd ra rb _ => Sys2Proof.Machine.execLwzux rd ra rb s
  | .andc rs ra rb rc => Sys2Proof.Machine.execAndc rs ra rb rc s
  | .mulhw rd ra rb rc => Sys2Proof.Machine.execMulhw rd ra rb rc s
  | .mfmsr rd _ _ _ => Sys2Proof.Machine.execMfmsr rd s
  | .dcbf _ _ _ _ => Sys2Proof.Machine.execDcbf s
  | .lbzx rd ra rb _ => Sys2Proof.Machine.execLbzx rd ra rb s
  | .neg rd ra _ oe rc => Sys2Proof.Machine.execNeg rd ra oe rc s
  | .lbzux rd ra rb _ => Sys2Proof.Machine.execLbzux rd ra rb s
  | .nor rs ra rb rc => Sys2Proof.Machine.execNor rs ra rb rc s
  | .subfe rd ra rb oe rc => Sys2Proof.Machine.execSubfe rd ra rb oe rc s
  | .adde rd ra rb oe rc => Sys2Proof.Machine.execAdde rd ra rb oe rc s
  | .mtcrf rs _ crm _ _ => Sys2Proof.Machine.execMtcrf rs crm s
  | .mtmsr rs _ _ _ => Sys2Proof.Machine.execMtmsr rs s
  | .stwcxDot rs ra rb z31 => Sys2Proof.Machine.execStwcxDot rs ra rb z31 s
  | .stwx rs ra rb _ => Sys2Proof.Machine.execStwx rs ra rb s
  | .stwux rs ra rb _ => Sys2Proof.Machine.execStwux rs ra rb s
  | .subfze rd ra _ oe rc => Sys2Proof.Machine.execSubfze rd ra oe rc s
  | .addze rd ra _ oe rc => Sys2Proof.Machine.execAddze rd ra oe rc s
  | .mtsr rs z11 sr z16 z31 => Sys2Proof.Machine.execMtsr rs z11 sr z16 z31 s
  | .stbx rs ra rb _ => Sys2Proof.Machine.execStbx rs ra rb s
  | .subfme rd ra _ oe rc => Sys2Proof.Machine.execSubfme rd ra oe rc s
  | .addme rd ra _ oe rc => Sys2Proof.Machine.execAddme rd ra oe rc s
  | .mullw rd ra rb oe rc => Sys2Proof.Machine.execMullw rd ra rb oe rc s
  | .mtsrin rs z11 rb z31 => Sys2Proof.Machine.execMtsrin rs z11 rb z31 s
  | .dcbtst _ _ _ _ => Sys2Proof.Machine.execDcbtst s
  | .stbux rs ra rb _ => Sys2Proof.Machine.execStbux rs ra rb s
  | .add rd ra rb oe rc => Sys2Proof.Machine.execAdd rd ra rb oe rc s
  | .dcbt _ _ _ _ => Sys2Proof.Machine.execDcbt s
  | .lhzx rd ra rb _ => Sys2Proof.Machine.execLhzx rd ra rb s
  | .eqv rs ra rb rc => Sys2Proof.Machine.execEqv rs ra rb rc s
  | .tlbie z6 z11 rb z31 => Sys2Proof.Machine.execTlbie z6 z11 rb z31 s
  | .lhzux rd ra rb _ => Sys2Proof.Machine.execLhzux rd ra rb s
  | .xor rs ra rb rc => Sys2Proof.Machine.execXor rs ra rb rc s
  | .mfspr rd spr z31 => Sys2Proof.Machine.execMfspr rd spr z31 s
  | .lhax rd ra rb _ => Sys2Proof.Machine.execLhax rd ra rb s
  | .mftb rd tbr z31 => Sys2Proof.Machine.execMftb rd tbr z31 s
  | .lhaux rd ra rb _ => Sys2Proof.Machine.execLhaux rd ra rb s
  | .sthx rs ra rb _ => Sys2Proof.Machine.execSthx rs ra rb s
  | .orc rs ra rb rc => Sys2Proof.Machine.execOrc rs ra rb rc s
  | .sthux rs ra rb _ => Sys2Proof.Machine.execSthux rs ra rb s
  | .or rs ra rb rc => Sys2Proof.Machine.execOr rs ra rb rc s
  | .divwu rd ra rb oe rc => Sys2Proof.Machine.execDivwu rd ra rb oe rc s
  | .mtspr rs spr z31 => Sys2Proof.Machine.execMtspr rs spr z31 s
  | .dcbi _ _ _ _ => Sys2Proof.Machine.execDcbi s
  | .nand rs ra rb rc => Sys2Proof.Machine.execNand rs ra rb rc s
  | .divw rd ra rb oe rc => Sys2Proof.Machine.execDivw rd ra rb oe rc s
  | .mcrxr crfD _ _ _ _ => Sys2Proof.Machine.execMcrxr crfD s
  | .lswx rd ra rb _ => Sys2Proof.Machine.execLswx rd ra rb s
  | .lwbrx rd ra rb _ => Sys2Proof.Machine.execLwbrx rd ra rb s
  | .lfsx frd ra rb _ => Sys2Proof.Machine.execLfsx frd ra rb s
  | .srw rs ra rb rc => Sys2Proof.Machine.execSrw rs ra rb rc s
  | .tlbsync z6 z11 z16 z31 => Sys2Proof.Machine.execTlbsync z6 z11 z16 z31 s
  | .lfsux frd ra rb _ => Sys2Proof.Machine.execLfsux frd ra rb s
  | .mfsr rd z11 sr z16 z31 => Sys2Proof.Machine.execMfsr rd z11 sr z16 z31 s
  | .lswi rd ra nb _ => Sys2Proof.Machine.execLswi rd ra nb s
  | .sync _ _ _ _ => Sys2Proof.Machine.execSync s
  | .lfdx frd ra rb _ => Sys2Proof.Machine.execLfdx frd ra rb s
  | .lfdux frd ra rb _ => Sys2Proof.Machine.execLfdux frd ra rb s
  | .mfsrin rd z11 rb z31 => Sys2Proof.Machine.execMfsrin rd z11 rb z31 s
  | .stswx rs ra rb _ => Sys2Proof.Machine.execStswx rs ra rb s
  | .stwbrx rs ra rb _ => Sys2Proof.Machine.execStwbrx rs ra rb s
  | .stfsx frs ra rb _ => Sys2Proof.Machine.execStfsx frs ra rb s
  | .stfsux frs ra rb _ => Sys2Proof.Machine.execStfsux frs ra rb s
  | .stswi rs ra nb _ => Sys2Proof.Machine.execStswi rs ra nb s
  | .stfdx frs ra rb _ => Sys2Proof.Machine.execStfdx frs ra rb s
  | .stfdux frs ra rb _ => Sys2Proof.Machine.execStfdux frs ra rb s
  | .lhbrx rd ra rb _ => Sys2Proof.Machine.execLhbrx rd ra rb s
  | .sraw rs ra rb rc => Sys2Proof.Machine.execSraw rs ra rb rc s
  | .srawi rs ra sh rc => Sys2Proof.Machine.execSrawi rs ra sh rc s
  | .eieio _ _ _ _ => Sys2Proof.Machine.execEieio s
  | .sthbrx rs ra rb _ => Sys2Proof.Machine.execSthbrx rs ra rb s
  | .extsh rs ra _ rc => Sys2Proof.Machine.execExtsh rs ra rc s
  | .extsb rs ra _ rc => Sys2Proof.Machine.execExtsb rs ra rc s
  | .icbi _ _ _ _ => Sys2Proof.Machine.execIcbi s
  | .stfiwx frs ra rb _ => Sys2Proof.Machine.execStfiwx frs ra rb s
  | .dcbz _ ra rb _ => Sys2Proof.Machine.execDcbz ra rb s
  | .lwz rd ra d => Sys2Proof.Machine.execLwz rd ra d s
  | .lwzu rd ra d => Sys2Proof.Machine.execLwzu rd ra d s
  | .lbz rd ra d => Sys2Proof.Machine.execLbz rd ra d s
  | .lbzu rd ra d => Sys2Proof.Machine.execLbzu rd ra d s
  | .stw rs ra d => Sys2Proof.Machine.execStw rs ra d s
  | .stwu rs ra d => Sys2Proof.Machine.execStwu rs ra d s
  | .stb rs ra d => Sys2Proof.Machine.execStb rs ra d s
  | .stbu rs ra d => Sys2Proof.Machine.execStbu rs ra d s
  | .lhz rd ra d => Sys2Proof.Machine.execLhz rd ra d s
  | .lhzu rd ra d => Sys2Proof.Machine.execLhzu rd ra d s
  | .lha rd ra d => Sys2Proof.Machine.execLha rd ra d s
  | .lhau rd ra d => Sys2Proof.Machine.execLhau rd ra d s
  | .sth rs ra d => Sys2Proof.Machine.execSth rs ra d s
  | .sthu rs ra d => Sys2Proof.Machine.execSthu rs ra d s
  | .lmw rd ra d => Sys2Proof.Machine.execLmw rd ra d s
  | .stmw rs ra d => Sys2Proof.Machine.execStmw rs ra d s
  | .lfs frd ra d => Sys2Proof.Machine.execLfs frd ra d s
  | .lfsu frd ra d => Sys2Proof.Machine.execLfsu frd ra d s
  | .lfd frd ra d => Sys2Proof.Machine.execLfd frd ra d s
  | .lfdu frd ra d => Sys2Proof.Machine.execLfdu frd ra d s
  | .stfs frs ra d => Sys2Proof.Machine.execStfs frs ra d s
  | .stfsu frs ra d => Sys2Proof.Machine.execStfsu frs ra d s
  | .stfd frs ra d => Sys2Proof.Machine.execStfd frs ra d s
  | .stfdu frs ra d => Sys2Proof.Machine.execStfdu frs ra d s
  | .fdivs frd fra frb _ rc => Sys2Proof.Machine.execFdivs frd fra frb rc s
  | .fsubs frd fra frb _ rc => Sys2Proof.Machine.execFsubs frd fra frb rc s
  | .fadds frd fra frb _ rc => Sys2Proof.Machine.execFadds frd fra frb rc s
  | .fres frd _ frb _ rc => Sys2Proof.Machine.execFres frd frb rc s
  | .fmuls frd fra _ frc rc => Sys2Proof.Machine.execFmuls frd fra frc rc s
  | .fmsubs frd fra frb frc rc => Sys2Proof.Machine.execFmsubs frd fra frb frc rc s
  | .fmadds frd fra frb frc rc => Sys2Proof.Machine.execFmadds frd fra frb frc rc s
  | .fnmsubs frd fra frb frc rc => Sys2Proof.Machine.execFnmsubs frd fra frb frc rc s
  | .fnmadds frd fra frb frc rc => Sys2Proof.Machine.execFnmadds frd fra frb frc rc s
  | .fdiv frd fra frb _ rc => Sys2Proof.Machine.execFdiv frd fra frb rc s
  | .fsub frd fra frb _ rc => Sys2Proof.Machine.execFsub frd fra frb rc s
  | .fadd frd fra frb _ rc => Sys2Proof.Machine.execFadd frd fra frb rc s
  | .fmul frd fra _ frc rc => Sys2Proof.Machine.execFmul frd fra frc rc s
  | .frsqrte frd _ frb _ rc => Sys2Proof.Machine.execFrsqrte frd frb rc s
  | .fmsub frd fra frb frc rc => Sys2Proof.Machine.execFmsub frd fra frb frc rc s
  | .fmadd frd fra frb frc rc => Sys2Proof.Machine.execFmadd frd fra frb frc rc s
  | .fnmsub frd fra frb frc rc => Sys2Proof.Machine.execFnmsub frd fra frb frc rc s
  | .fnmadd frd fra frb frc rc => Sys2Proof.Machine.execFnmadd frd fra frb frc rc s
  | .fcmpu crfD _ fra frb _ => Sys2Proof.Machine.execFcmpu crfD fra frb s
  | .frsp frd _ frb rc => Sys2Proof.Machine.execFrsp frd frb rc s
  | .fctiw frd _ frb rc => Sys2Proof.Machine.execFctiw frd frb rc s
  | .fctiwz frd _ frb rc => Sys2Proof.Machine.execFctiwz frd frb rc s
  | .fcmpo crfD _ fra frb _ => Sys2Proof.Machine.execFcmpo crfD fra frb s
  | .mtfsb1 crbD _ _ rc => Sys2Proof.Machine.execMtfsb1 crbD rc s
  | .fneg frd _ frb rc => Sys2Proof.Machine.execFneg frd frb rc s
  | .mcrfs crfD _ crfS _ _ _ => Sys2Proof.Machine.execMcrfs crfD crfS s
  | .mtfsb0 crbD _ _ rc => Sys2Proof.Machine.execMtfsb0 crbD rc s
  | .fmr frd _ frb rc => Sys2Proof.Machine.execFmr frd frb rc s
  | .mtfsfi crfD _ _ imm _ rc => Sys2Proof.Machine.execMtfsfi crfD imm rc s
  | .fnabs frd _ frb rc => Sys2Proof.Machine.execFnabs frd frb rc s
  | .fabs frd _ frb rc => Sys2Proof.Machine.execFabs frd frb rc s
  | .mffs frd _ _ rc => Sys2Proof.Machine.execMffs frd rc s
  | .mtfsf _ fm _ frb rc => Sys2Proof.Machine.execMtfsf fm frb rc s

end Sys2Proof.Machine
end

