-- ==== Sys2Proof/Machine/Driver.lean ====
section
/-! DEFINITION. The Dispatcher's step (40_dispatcher.md R130 to R135) and the Evaluation Driver's turn of the loop around it (R138,
R139, R144). Step.lean only calls what stands here. -/

namespace Sys2Proof.Machine

/-- The tag of a word that matches no row (R137). -/
def unknownTag : DecodeError → Tag
  | .unknown => .unknown
  | .unknown19 => .unknown19
  | .unknown31 => .unknown31
  | .unknown59 => .unknown59
  | .unknown63 => .unknown63
  | .truncated => .unknown

/-- The fetch at CIA: alignment of PC before any port call (R132), then one port read of width 4 (R133; 20_memory.md R70). -/
def fetch (s : State) : State × Except StepOutcome Word :=
  if aligned s.pc .word = false then (s, .error (.alignment .fetch s.pc .word))
  else
    match s.memRead s.pc .word with
    | (t, .error o) => (t, .error o)
    | (t, .ok v) => (t, .ok (lowWord v))

/-- One step of the Dispatcher (R131). It is total. -/
def dispatchStep (s : State) : Result :=
  match fetch s with
  | (t, .error o) => fail o t
  | (t, .ok w) =>
    match decode w with
    | .error e => reportInvalid (unknownTag e) w t
    | .ok i => exec i t

/-- The time base advanced by TB_TICK, between steps (R144; log 10). -/
def State.tick (s : State) : State := { s with tb := s.tb + Config.tbTick s.tickCount, tickCount := s.tickCount + 1 }

/-- Whether an outcome stops the loop (R139). -/
def stopsLoop (haltOnInvalid : Bool) : StepOutcome → Bool
  | .ok => false
  | .invalid _ => haltOnInvalid
  | .alignment .. => true
  | .memoryFailure .. => true

/-- The Driver's act after a step: `running` cleared where the outcome stops the loop (R138, R139). -/
def State.settle (s : State) : State :=
  match s.outcome with
  | none => s
  | some o => if stopsLoop s.params.haltOnInvalid o then { s with running := false } else s

/-- The Driver's act on what the Dispatcher answered. -/
def settleResult : Result → Result
  | .next s => .next s.settle
  | .fault r => .fault r
  | .refused r => .refused r

/-- One turn of the Driver's loop (R138): `running` first, then the connection, then the tick, the step, and the stop. Asking for
the connection is a call of the port too (R60), so others may act before it. -/
def driveOnce (s : State) : Result :=
  if s.running = false then .fault .loopStopped
  else if s.atCall.port.hooked = false then .next { s.atCall with running := false }
  else settleResult (dispatchStep s.atCall.tick)

/-- The port hooked, with the four bytes of a word at an address answered for reading, added only where they are not. -/
def Port.withWordAt (p : Port) (a : Nat) : Port :=
  let q : Port := { p with hooked := true }
  if q.answers .read a 4 then q else { q with ranges := { base := a, size := 4 } :: q.ranges }

/-- The state whose next turn of the loop fetches a word: the loop started, the port hooked, PC on a multiple of 4, the word
where PC points (R582), and nobody coming between before the turn has asked for the connection and fetched. -/
def placeWord (s : State) (w : Word) : State :=
  let a := s.pc &&& 0xFFFFFFFC
  { s with
    running := true
    pc := a
    port := s.port.withWordAt a.toNat
    traffic := { } :: { } :: s.traffic
    mem := writeBytes s.mem a.toNat 4 (asPort w) }

end Sys2Proof.Machine
end

