-- ==== Sys2Proof/Machine/Step.lean ====
section
/-! DEFINITION. The step of the model: one turn of the Evaluation Driver's loop (40_dispatcher.md R138). -/

namespace Sys2Proof.Machine

/-- One turn of the loop. -/
def step (s : State) : Host.Outcome State Fault Refusal := driveOnce s

/-- The state in which the next step fetches and runs the instruction whose bits are `w`. Every instruction is one word, so
`nbits` is 32. It stands for the host's part, which loads memory and starts the loop (70_reset_and_hazards.md R582; log 3). -/
def State.withFetchWord (s : State) (_nbits w : Nat) : State := placeWord s (BitVec.ofNat 32 w)

end Sys2Proof.Machine
end

