-- ==== Sys2Proof/Safety.lean ====
section
/-! DEFINITION. The words the statements are made of: a good state, how an instruction ends, what it leaves alone, and the forms of
the instructions that share a shape, written from the spec's rules and not from the meanings. -/

namespace Sys2Proof.Machine

/-! ## Good states -/

/-- The data of a state is in its canonical form: the image and the SPR file as their definitions say. -/
structure State.WellFormed (s : State) : Prop where
  mem : Memory.wf s.mem
  sprs : SprFile.wf s.sprs

/-- What every step keeps: canonical data, a PC that is a multiple of 4 (10_state.md R22), VX and FEX what R37 derives them to be,
and a loop that does not run on after an outcome that stops it (40_dispatcher.md R139). -/
structure State.Inv (s : State) : Prop where
  wf : s.WellFormed
  pcAligned : aligned s.pc .word = true
  fpscr : fpscrConsistent s.fpscr
  stopped : ∀ o ∈ s.outcome, s.running = true → stopsLoop s.params.haltOnInvalid o = false

/-! ## What a step leaves alone -/

/-- Every byte of the image reads as before. -/
def sameImage (s t : State) : Prop := ∀ a : Nat, readByte t.mem a = readByte s.mem a

/-- Every byte of the image outside `n` bytes from `a` reads as before. -/
def sameImageOutside (a n : Nat) (s t : State) : Prop :=
  ∀ x : Nat, x < a ∨ a + n ≤ x → readByte t.mem x = readByte s.mem x

/-- What no instruction touches: the time base, the `running` flag, the parameters and the tick counter (R34, R39). -/
def sameSurroundings (s t : State) : Prop :=
  t.tb = s.tb ∧ t.running = s.running ∧ t.params = s.params ∧ t.tickCount = s.tickCount

/-- The port, and what others will still do to it, are as some number of calls leave them: of the core, an instruction only calls
(20_memory.md R74; 70_reset_and_hazards.md R592 (c)); where the instruction writes nothing, the image is so too. -/
def onlyCalls (writes : Bool) (s t : State) : Prop :=
  ∃ n, t.port = (s.afterCalls n).port ∧ t.traffic = (s.afterCalls n).traffic ∧
    (writes = false → sameImage (s.afterCalls n) t)

/-- The instruction runs to a next state, and that state has the property. -/
def Ends (i : Instr) (s : State) (P : State → Prop) : Prop := ∃ t, exec i s = .next t ∧ P t

/-- Completed at the next word; of the machine, at most general registers, CR and XER differ. -/
def fixedOnly (s t : State) : Prop :=
  t = { s with gprs := t.gprs, cr := t.cr, xer := t.xer, pc := s.pc + 4, outcome := some .ok } ∧ sameImage s t

/-- Completed at the next word; at most general registers differ. -/
def gprsOnly (s t : State) : Prop :=
  t = { s with gprs := t.gprs, pc := s.pc + 4, outcome := some .ok } ∧ sameImage s t

/-- Completed at the next word; at most CR differs. -/
def crOnly (s t : State) : Prop :=
  t = { s with cr := t.cr, pc := s.pc + 4, outcome := some .ok } ∧ sameImage s t

/-- Completed at the next word; at most floating-point registers, FPSCR and CR differ. -/
def floatOnly (s t : State) : Prop :=
  t = { s with fprs := t.fprs, fpscr := t.fpscr, cr := t.cr, pc := s.pc + 4, outcome := some .ok } ∧ sameImage s t

/-- Completed at the next word; at most floating-point and general registers differ. -/
def floatLoadOnly (s t : State) : Prop :=
  t = { s with fprs := t.fprs, gprs := t.gprs, pc := s.pc + 4, outcome := some .ok } ∧ sameImage s t

/-- Completed at the next word; at most general registers and the image differ. -/
def storeOnly (s t : State) : Prop :=
  t = { s with gprs := t.gprs, mem := t.mem, pc := s.pc + 4, outcome := some .ok }

/-- The general register `r` holds `v`, every other one what it held. -/
def onlyGpr (r : GprNum) (v : Word) (s t : State) : Prop := t.gpr r = v ∧ ∀ x, x ≠ r → t.gpr x = s.gpr x

/-- The floating-point register `r` holds `v`, every other one what it held. -/
def onlyFpr (r : FprNum) (v : DWord) (s t : State) : Prop := t.fpr r = v ∧ ∀ x, x ≠ r → t.fpr x = s.fpr x

/-! ## Flags, bit by bit -/

/-- Field `n` of CR holds the four bits LT, GT, EQ, SO given, every other bit of CR what it held (10_state.md R24). -/
def crField (n : CrField) (lt gt eq so : Bool) (s t : State) : Prop :=
  t.cr.getMsbD (4 * n.toNat) = lt ∧ t.cr.getMsbD (4 * n.toNat + 1) = gt ∧ t.cr.getMsbD (4 * n.toNat + 2) = eq ∧
    t.cr.getMsbD (4 * n.toNat + 3) = so ∧ ∀ k, k / 4 ≠ n.toNat → t.cr.getMsbD k = s.cr.getMsbD k

/-- R161: field 0 of CR from the signed reading of `v` and the XER.SO of the new state, or CR unchanged. -/
def cr0Rule (rc : Bool) (v : Word) (s t : State) : Prop :=
  if rc then
    crField 0 (decide (v.toInt < 0)) (decide (0 < v.toInt)) (decide (v.toInt = 0)) (t.xer.getMsbD 0) s t
  else t.cr = s.cr

/-- R162 and R163: OV written and SO accumulated where OE is 1; CA written where a value is given; every other bit of XER kept. -/
def xerRule (oe ov : Bool) (ca : Option Bool) (s t : State) : Prop :=
  t.xer.getMsbD 0 = (s.xer.getMsbD 0 || (oe && ov)) ∧
    t.xer.getMsbD 1 = (if oe then ov else s.xer.getMsbD 1) ∧
    t.xer.getMsbD 2 = ca.getD (s.xer.getMsbD 2) ∧
    ∀ k, 3 ≤ k → t.xer.getMsbD k = s.xer.getMsbD k

/-- How a fixed-point instruction with a register result ends: the register, XER, CR, and nothing else. -/
def fixedEnds (r : GprNum) (v : Word) (oe ov : Bool) (ca : Option Bool) (rc : Bool) (s t : State) : Prop :=
  fixedOnly s t ∧ onlyGpr r v s t ∧ xerRule oe ov ca s t ∧ cr0Rule rc v s t

/-- An exact integer fits in 32 signed bits (R162). -/
def fits (i : Int) : Prop := -(2 ^ 31) ≤ i ∧ i < 2 ^ 31

/-- Whether an exact result does not fit, as the flag OV. -/
def notFits (i : Int) : Bool := decide (i < -(2 ^ 31) ∨ 2 ^ 31 ≤ i)

/-- XER.CA as an exact integer. -/
def caInt (s : State) : Int := if s.xer.getMsbD 2 then 1 else 0

/-- XER.CA as a natural number. -/
def caNat (s : State) : Nat := if s.xer.getMsbD 2 then 1 else 0

/-- The exact signed value of the base operand (RA|0) (30_encoding.md R96). -/
def baseInt (ra : GprNum) (s : State) : Int := if ra = 0 then 0 else (s.gpr ra).toInt

/-- Whether bit `k` lies in MASK(mb, me) (42_fixed_point_logical_compare_shift.md R222). -/
def inMask (mb me : BitVec 5) (k : Nat) : Bool :=
  if mb.toNat ≤ me.toNat then decide (mb.toNat ≤ k) && decide (k ≤ me.toNat)
  else decide (mb.toNat ≤ k) || decide (k ≤ me.toNat)

/-- The bits of register `r` are those given, and the record rule. -/
def logicalEnds (r : GprNum) (f : Nat → Bool) (rc : Bool) (s t : State) : Prop :=
  (∀ k, k < 32 → (t.gpr r).getMsbD k = f k) ∧ fixedEnds r (t.gpr r) false false none rc s t

/-! ## Loads and stores of one access -/

/-- The bytes of a word, the most significant first (20_memory.md R62). -/
def wordBytes (w : Word) : List Byte := [w.extractLsb' 24 8, w.extractLsb' 16 8, w.extractLsb' 8 8, w.extractLsb' 0 8]

/-- The bytes of a doubleword, the most significant first. -/
def doubleBytes (d : DWord) : List Byte := wordBytes (d.extractLsb' 32 32) ++ wordBytes (d.extractLsb' 0 32)

/-- A load of one access: where to, from where, how wide, the register an update form writes EA to, and the value as a function
of the bytes from EA on. -/
structure LoadForm where
  rd : GprNum
  ea : Word
  width : Width
  base : Option GprNum
  value : (Nat → Byte) → Word

/-- The eighteen fixed-point loads of one access (43_fixed_point_load_store.md R253 to R268, R290, R291). -/
def loadForm : Instr → State → Option LoadForm
  | .lbz rd ra d, s => some ⟨rd, s.eaD ra d, .byte, none, fun b => (b 0).setWidth 32⟩
  | .lbzx rd ra rb _, s => some ⟨rd, s.eaX ra rb, .byte, none, fun b => (b 0).setWidth 32⟩
  | .lbzu rd ra d, s => some ⟨rd, s.eaDU ra d, .byte, some ra, fun b => (b 0).setWidth 32⟩
  | .lbzux rd ra rb _, s => some ⟨rd, s.eaXU ra rb, .byte, some ra, fun b => (b 0).setWidth 32⟩
  | .lhz rd ra d, s => some ⟨rd, s.eaD ra d, .half, none, fun b => (b 0 ++ b 1).setWidth 32⟩
  | .lhzx rd ra rb _, s => some ⟨rd, s.eaX ra rb, .half, none, fun b => (b 0 ++ b 1).setWidth 32⟩
  | .lhzu rd ra d, s => some ⟨rd, s.eaDU ra d, .half, some ra, fun b => (b 0 ++ b 1).setWidth 32⟩
  | .lhzux rd ra rb _, s => some ⟨rd, s.eaXU ra rb, .half, some ra, fun b => (b 0 ++ b 1).setWidth 32⟩
  | .lha rd ra d, s => some ⟨rd, s.eaD ra d, .half, none, fun b => (b 0 ++ b 1).signExtend 32⟩
  | .lhax rd ra rb _, s => some ⟨rd, s.eaX ra rb, .half, none, fun b => (b 0 ++ b 1).signExtend 32⟩
  | .lhau rd ra d, s => some ⟨rd, s.eaDU ra d, .half, some ra, fun b => (b 0 ++ b 1).signExtend 32⟩
  | .lhaux rd ra rb _, s => some ⟨rd, s.eaXU ra rb, .half, some ra, fun b => (b 0 ++ b 1).signExtend 32⟩
  | .lwz rd ra d, s => some ⟨rd, s.eaD ra d, .word, none, fun b => b 0 ++ b 1 ++ b 2 ++ b 3⟩
  | .lwzx rd ra rb _, s => some ⟨rd, s.eaX ra rb, .word, none, fun b => b 0 ++ b 1 ++ b 2 ++ b 3⟩
  | .lwzu rd ra d, s => some ⟨rd, s.eaDU ra d, .word, some ra, fun b => b 0 ++ b 1 ++ b 2 ++ b 3⟩
  | .lwzux rd ra rb _, s => some ⟨rd, s.eaXU ra rb, .word, some ra, fun b => b 0 ++ b 1 ++ b 2 ++ b 3⟩
  | .lhbrx rd ra rb _, s => some ⟨rd, s.eaX ra rb, .half, none, fun b => (b 1 ++ b 0).setWidth 32⟩
  | .lwbrx rd ra rb _, s => some ⟨rd, s.eaX ra rb, .word, none, fun b => b 3 ++ b 2 ++ b 1 ++ b 0⟩
  | _, _ => none

/-- A load of one access into a floating-point register. -/
structure FloatLoadForm where
  frd : FprNum
  ea : Word
  width : Width
  base : Option GprNum
  value : (Nat → Byte) → DWord

/-- The eight floating-point loads (46_floating_point_load_store.md R423 to R430). -/
def floatLoadForm : Instr → State → Option FloatLoadForm
  | .lfs frd ra d, s => some ⟨frd, s.eaD ra d, .word, none, fun b => toDouble (b 0 ++ b 1 ++ b 2 ++ b 3)⟩
  | .lfsx frd ra rb _, s => some ⟨frd, s.eaX ra rb, .word, none, fun b => toDouble (b 0 ++ b 1 ++ b 2 ++ b 3)⟩
  | .lfsu frd ra d, s => some ⟨frd, s.eaDU ra d, .word, some ra, fun b => toDouble (b 0 ++ b 1 ++ b 2 ++ b 3)⟩
  | .lfsux frd ra rb _, s => some ⟨frd, s.eaXU ra rb, .word, some ra, fun b => toDouble (b 0 ++ b 1 ++ b 2 ++ b 3)⟩
  | .lfd frd ra d, s =>
    some ⟨frd, s.eaD ra d, .double, none, fun b => b 0 ++ b 1 ++ b 2 ++ b 3 ++ b 4 ++ b 5 ++ b 6 ++ b 7⟩
  | .lfdx frd ra rb _, s =>
    some ⟨frd, s.eaX ra rb, .double, none, fun b => b 0 ++ b 1 ++ b 2 ++ b 3 ++ b 4 ++ b 5 ++ b 6 ++ b 7⟩
  | .lfdu frd ra d, s =>
    some ⟨frd, s.eaDU ra d, .double, some ra, fun b => b 0 ++ b 1 ++ b 2 ++ b 3 ++ b 4 ++ b 5 ++ b 6 ++ b 7⟩
  | .lfdux frd ra rb _, s =>
    some ⟨frd, s.eaXU ra rb, .double, some ra, fun b => b 0 ++ b 1 ++ b 2 ++ b 3 ++ b 4 ++ b 5 ++ b 6 ++ b 7⟩
  | _, _ => none

/-- A store of one access: to where, how wide, the register an update form writes EA to, and the bytes from EA on. -/
structure StoreForm where
  ea : Word
  width : Width
  base : Option GprNum
  bytes : List Byte

/-- The low byte of a register. -/
def lowByte (w : Word) : List Byte := [w.extractLsb' 0 8]

/-- The low halfword of a register, the most significant byte first. -/
def lowHalf (w : Word) : List Byte := [w.extractLsb' 8 8, w.extractLsb' 0 8]

/-- The fourteen fixed-point stores of one access (43_fixed_point_load_store.md R269 to R280, R292, R293). -/
def storeForm : Instr → State → Option StoreForm
  | .stb rs ra d, s => some ⟨s.eaD ra d, .byte, none, lowByte (s.gpr rs)⟩
  | .stbx rs ra rb _, s => some ⟨s.eaX ra rb, .byte, none, lowByte (s.gpr rs)⟩
  | .stbu rs ra d, s => some ⟨s.eaDU ra d, .byte, some ra, lowByte (s.gpr rs)⟩
  | .stbux rs ra rb _, s => some ⟨s.eaXU ra rb, .byte, some ra, lowByte (s.gpr rs)⟩
  | .sth rs ra d, s => some ⟨s.eaD ra d, .half, none, lowHalf (s.gpr rs)⟩
  | .sthx rs ra rb _, s => some ⟨s.eaX ra rb, .half, none, lowHalf (s.gpr rs)⟩
  | .sthu rs ra d, s => some ⟨s.eaDU ra d, .half, some ra, lowHalf (s.gpr rs)⟩
  | .sthux rs ra rb _, s => some ⟨s.eaXU ra rb, .half, some ra, lowHalf (s.gpr rs)⟩
  | .stw rs ra d, s => some ⟨s.eaD ra d, .word, none, wordBytes (s.gpr rs)⟩
  | .stwx rs ra rb _, s => some ⟨s.eaX ra rb, .word, none, wordBytes (s.gpr rs)⟩
  | .stwu rs ra d, s => some ⟨s.eaDU ra d, .word, some ra, wordBytes (s.gpr rs)⟩
  | .stwux rs ra rb _, s => some ⟨s.eaXU ra rb, .word, some ra, wordBytes (s.gpr rs)⟩
  | .sthbrx rs ra rb _, s => some ⟨s.eaX ra rb, .half, none, (lowHalf (s.gpr rs)).reverse⟩
  | .stwbrx rs ra rb _, s => some ⟨s.eaX ra rb, .word, none, (wordBytes (s.gpr rs)).reverse⟩
  | _, _ => none

/-- The nine floating-point stores (46_floating_point_load_store.md R431 to R439). -/
def floatStoreForm : Instr → State → Option StoreForm
  | .stfs frs ra d, s => some ⟨s.eaD ra d, .word, none, wordBytes (toSingle (s.fpr frs))⟩
  | .stfsx frs ra rb _, s => some ⟨s.eaX ra rb, .word, none, wordBytes (toSingle (s.fpr frs))⟩
  | .stfsu frs ra d, s => some ⟨s.eaDU ra d, .word, some ra, wordBytes (toSingle (s.fpr frs))⟩
  | .stfsux frs ra rb _, s => some ⟨s.eaXU ra rb, .word, some ra, wordBytes (toSingle (s.fpr frs))⟩
  | .stfd frs ra d, s => some ⟨s.eaD ra d, .double, none, doubleBytes (s.fpr frs)⟩
  | .stfdx frs ra rb _, s => some ⟨s.eaX ra rb, .double, none, doubleBytes (s.fpr frs)⟩
  | .stfdu frs ra d, s => some ⟨s.eaDU ra d, .double, some ra, doubleBytes (s.fpr frs)⟩
  | .stfdux frs ra rb _, s => some ⟨s.eaXU ra rb, .double, some ra, doubleBytes (s.fpr frs)⟩
  | .stfiwx frs ra rb _, s => some ⟨s.eaX ra rb, .word, none, wordBytes ((s.fpr frs).extractLsb' 0 32)⟩
  | _, _ => none

/-- The port call of a load or store of one access: direction, address, width. -/
def singleAccess (i : Instr) (s : State) : Option (Rw × Word × Width) :=
  match loadForm i s, floatLoadForm i s, storeForm i s, floatStoreForm i s with
  | some f, _, _, _ => some (.read, f.ea, f.width)
  | _, some f, _, _ => some (.read, f.ea, f.width)
  | _, _, some f, _ => some (.write, f.ea, f.width)
  | _, _, _, some f => some (.write, f.ea, f.width)
  | _, _, _, _ => none

/-- R251: RD holds the value; then, in an update form, the base register holds EA, also where it is RD; nothing else changes. -/
def loadedInto (rd : GprNum) (v : Word) (base : Option GprNum) (ea : Word) (s t : State) : Prop :=
  match base with
  | none => onlyGpr rd v s t
  | some ra => t.gpr ra = ea ∧ (rd ≠ ra → t.gpr rd = v) ∧ ∀ x, x ≠ ra → x ≠ rd → t.gpr x = s.gpr x

/-- The general registers after a store or a floating-point load: unchanged, but for the base register of an update form. -/
def baseUpdated (base : Option GprNum) (ea : Word) (s t : State) : Prop :=
  match base with
  | none => ∀ x, t.gpr x = s.gpr x
  | some ra => onlyGpr ra ea s t

/-- The bytes stand in the image from `a` on, and every byte outside them reads as before. -/
def bytesStored (a : Nat) (l : List Byte) (s t : State) : Prop :=
  (∀ k (h : k < l.length), readByte t.mem (a + k) = l[k]) ∧ sameImageOutside a l.length s t

/-! ## Multiple and string accesses (20_memory.md R69) -/

/-- The byte count of the string instructions: an immediate, 0 standing for 32 (R296). -/
def countOf (nb : BitVec 5) : Nat := if nb.toNat = 0 then 32 else nb.toNat

/-- A load of many accesses: the first register, the width, EA, the number of accesses. -/
structure MultiLoadForm where
  rd : GprNum
  width : Width
  ea : Word
  count : Nat

/-- `lmw` with an EA that is a multiple of 4, and the two string loads (R294, R296, R297). -/
def multiLoadForm : Instr → State → Option MultiLoadForm
  | .lmw rd ra d, s => if (s.eaD ra d).toNat % 4 = 0 then some ⟨rd, .word, s.eaD ra d, 32 - rd.toNat⟩ else none
  | .lswi rd ra nb _, s => some ⟨rd, .byte, s.raOrZero ra, countOf nb⟩
  | .lswx rd ra rb _, s => some ⟨rd, .byte, s.eaX ra rb, s.xer.toNat % 128⟩
  | _, _ => none

/-- The address of access `k`, modulo 2^32 (R61). -/
def MultiLoadForm.address (f : MultiLoadForm) (k : Nat) : Word := f.ea + BitVec.ofNat 32 (f.width.bytes * k)

/-- The number of bytes a load of many accesses moves. -/
def MultiLoadForm.total (f : MultiLoadForm) : Nat := f.width.bytes * f.count

/-- What byte `q` (0 to 3) of the `j`-th register holds after the load: the next byte of memory, from the image that the call for it
meets, or the zero padding. -/
def MultiLoadForm.byte (f : MultiLoadForm) (s : State) (j q : Nat) : Byte :=
  if 4 * j + q < f.total then
    readByte (s.afterCalls ((4 * j + q) / f.width.bytes + 1)).mem (f.ea + BitVec.ofNat 32 (4 * j + q)).toNat
  else 0

/-- The port calls of `stmw` with an EA that is a multiple of 4, of the two string stores and of `dcbz`, in order: each address
with the bytes it sends (R295, R298, R299; 48_system_unit.md R500). -/
def multiStoreForm : Instr → State → Option (Width × List (Word × List Byte))
  | .stmw rs ra d, s =>
    if (s.eaD ra d).toNat % 4 = 0 then
      some (.word, (List.range (32 - rs.toNat)).map fun k =>
        (s.eaD ra d + BitVec.ofNat 32 (4 * k), wordBytes (s.gpr (rs + BitVec.ofNat 5 k))))
    else none
  | .stswi rs ra nb _, s =>
    some (.byte, (List.range (countOf nb)).map fun k =>
      (s.raOrZero ra + BitVec.ofNat 32 k, [(wordBytes (s.gpr (rs + BitVec.ofNat 5 (k / 4)))).getD (k % 4) 0]))
  | .stswx rs ra rb _, s =>
    some (.byte, (List.range (s.xer.toNat % 128)).map fun k =>
      (s.eaX ra rb + BitVec.ofNat 32 k, [(wordBytes (s.gpr (rs + BitVec.ofNat 5 (k / 4)))).getD (k % 4) 0]))
  | .dcbz _ ra rb _, s =>
    let block := 4 * 2 ^ s.params.cacheBlockShift.val
    let base := (s.eaX ra rb).toNat / block * block
    some (.word, (List.range (block / 4)).map fun k => (BitVec.ofNat 32 (base + 4 * k), [0, 0, 0, 0]))
  | _, _ => none

/-- The first `n` port calls have stored their bytes, and every byte outside them reads as before. -/
def firstStored (l : List (Word × List Byte)) (n : Nat) (s t : State) : Prop :=
  (∀ k (h : k < l.length), k < n → ∀ j (hj : j < l[k].2.length), readByte t.mem (l[k].1.toNat + j) = l[k].2[j]) ∧
    ∀ x : Nat,
      (∀ k (h : k < l.length), k < n → x < l[k].1.toNat ∨ l[k].1.toNat + l[k].2.length ≤ x) →
        readByte t.mem x = readByte s.mem x

/-- Port calls that store, one after another: before each of them others come, then its bytes stand at its address and every byte
outside them reads as the call found it; no register changes (20_memory.md R69, R74). -/
def StoresTo : List (Word × List Byte) → State → State → Prop
  | [], s, t => t = s
  | c :: l, s, t =>
    ∃ u : State, u = { s.atCall with mem := u.mem } ∧ bytesStored c.1.toNat c.2 s.atCall u ∧ StoresTo l u t

/-- The instructions that write the image. -/
def isStore (i : Instr) : Bool :=
  match i with
  | .stb .. | .stbx .. | .stbu .. | .stbux .. | .sth .. | .sthx .. | .sthu .. | .sthux .. | .stw .. | .stwx ..
  | .stwu .. | .stwux .. | .sthbrx .. | .stwbrx .. | .stmw .. | .stswi .. | .stswx .. | .stfs .. | .stfsx ..
  | .stfsu .. | .stfsux .. | .stfd .. | .stfdx .. | .stfdu .. | .stfdux .. | .stfiwx .. | .dcbz .. => true
  | _ => false

/-- The four instructions that store by many accesses. -/
def isMultiStore (i : Instr) : Bool :=
  match i with
  | .stmw .. | .stswi .. | .stswx .. | .dcbz .. => true
  | _ => false

/-- The six instructions that write PC themselves (40_dispatcher.md R135). -/
def writesPc (i : Instr) : Bool :=
  match i with
  | .b .. | .bc .. | .bclr .. | .bcctr .. | .sc .. | .rfi .. => true
  | _ => false

/-- The ten recognised but unimplemented instructions and their tags (49_unimplemented.md R519). -/
def unimplementedTag : Instr → Option Tag
  | .lwarx .. => some .lwarx
  | .stwcxDot .. => some .stwcxDot
  | .mfsr .. => some .mfsr
  | .mfsrin .. => some .mfsrin
  | .mtsr .. => some .mtsr
  | .mtsrin .. => some .mtsrin
  | .tlbie .. => some .tlbie
  | .tlbsync .. => some .tlbsync
  | .tw .. => some .tw
  | .twi .. => some .twi
  | _ => none

/-! ## Floating point -/

/-- Whether a pattern is finite (45_floating_point_arithmetic.md R341). -/
def isFinite (d : DWord) : Bool := (d.extractLsb' 52 11).toNat != 2047

/-- The value of a finite binary64 pattern (R341). -/
def valueOf (d : DWord) : ℚ :=
  (if d.getMsbD 0 then -1 else 1) *
    (if (d.extractLsb' 52 11).toNat = 0 then ((d.extractLsb' 0 52).toNat : ℚ) * 2 ^ (1 - 1023 - 52 : Int)
     else (1 + ((d.extractLsb' 0 52).toNat : ℚ) / 2 ^ 52) * 2 ^ (((d.extractLsb' 52 11).toNat : Int) - 1023))

/-- The value of a finite binary32 pattern (R341). -/
def valueOfSingle (w : Word) : ℚ :=
  (if w.getMsbD 0 then -1 else 1) *
    (if (w.extractLsb' 23 8).toNat = 0 then ((w.extractLsb' 0 23).toNat : ℚ) * 2 ^ (1 - 127 - 23 : Int)
     else (1 + ((w.extractLsb' 0 23).toNat : ℚ) / 2 ^ 23) * 2 ^ (((w.extractLsb' 23 8).toNat : Int) - 127))

/-- R343's inc for a rounding mode, a sign, the kept integer and the remainder. -/
def incOf (rn : BitVec 2) (neg : Bool) (n : Int) (rem : ℚ) : Bool :=
  match rn.toNat with
  | 0 => decide (1 / 2 < rem) || (decide (rem = 1 / 2) && decide (n % 2 = 1))
  | 1 => false
  | 2 => decide (rem ≠ 0) && !neg
  | _ => decide (rem ≠ 0) && neg

/-- R344's table: the result of an overflow. -/
def overflowResult (fmt : FpFormat) (rn : BitVec 2) (neg : Bool) : DWord :=
  match fmt, rn.toNat, neg with
  | _, 0, false => 0x7FF0000000000000
  | _, 0, true => 0xFFF0000000000000
  | .double, 1, false => 0x7FEFFFFFFFFFFFFF
  | .double, 1, true => 0xFFEFFFFFFFFFFFFF
  | .single, 1, false => 0x47EFFFFFE0000000
  | .single, 1, true => 0xC7EFFFFFE0000000
  | _, 2, false => 0x7FF0000000000000
  | .double, 2, true => 0xFFEFFFFFFFFFFFFF
  | .single, 2, true => 0xC7EFFFFFE0000000
  | .double, _, false => 0x7FEFFFFFFFFFFFFF
  | .single, _, false => 0x47EFFFFFE0000000
  | _, _, true => 0xFFF0000000000000

/-- R343 to R345: `r` is the rounding of the exact non-zero value `x` to the format. -/
def RoundsTo (fmt : FpFormat) (rn : BitVec 2) (x : ℚ) (r : FpResult) : Prop :=
  let neg := decide (x < 0)
  let e := Int.log 2 |x|
  let q := max e fmt.emin - (fmt.precision - 1)
  let n := ⌊|x| / 2 ^ q⌋
  let rem := |x| / 2 ^ q - n
  let inc := incOf rn neg n rem
  let y : ℚ := ((n : ℚ) + if inc then 1 else 0) * 2 ^ q
  if 2 ^ (fmt.emax + 1) ≤ y then
    r.value = overflowResult fmt rn neg ∧ r.flags = fpOX ||| fpXX ∧ r.fi = true ∧ r.fr = !isFinite r.value
  else
    isFinite r.value = true ∧ r.value.getMsbD 0 = neg ∧ |valueOf r.value| = y ∧ r.fi = decide (rem ≠ 0) ∧ r.fr = inc ∧
      r.flags = (if rem ≠ 0 then fpXX else 0) ||| (if e < fmt.emin ∧ rem ≠ 0 then fpUX else 0)

/-- An exact zero: its sign, no flag, FR and FI 0. -/
def isExactZero (neg : Bool) (r : FpResult) : Prop :=
  r = { value := if neg then 0x8000000000000000 else 0, flags := 0, fr := false, fi := false }

/-- An exact infinity likewise. -/
def isExactInfinity (neg : Bool) (r : FpResult) : Prop :=
  r = { value := if neg then 0xFFF0000000000000 else 0x7FF0000000000000, flags := 0, fr := false, fi := false }

/-- R346 (c): an invalid operation gives the default QNaN and its flag. -/
def isInvalid (flag : Word) (r : FpResult) : Prop :=
  r = { value := 0x7FF8000000000000, flags := flag, fr := false, fi := false }

/-- R346 (a), (b): `r` is the result for operands of which one is a NaN: the first NaN made quiet, VXSNAN where one signals. -/
def isNaNResult (ops : List DWord) (r : FpResult) : Prop :=
  ∃ d ∈ ops.find? isNaN,
    r = { value := d ||| 0x0008000000000000, flags := if ops.any isSNaN then fpVXSNAN else 0, fr := false, fi := false }

/-- `v` is 1/sqrt(b) rounded to the nearest binary64, for a positive finite `b`: the exact root lies between the points half way to
the two neighbours of `v`, and on neither unless `v` is even (R370). -/
def nearestEvenRoot (b v : DWord) : Prop :=
  let below := (valueOf (v - 1) + valueOf v) / 2
  let above := (valueOf v + valueOf (v + 1)) / 2
  isFinite v = true ∧ 0 < valueOf v ∧ below ^ 2 * valueOf b ≤ 1 ∧ 1 ≤ above ^ 2 * valueOf b ∧
    (below ^ 2 * valueOf b = 1 ∨ above ^ 2 * valueOf b = 1 → v.getMsbD 63 = false)

/-- What each of the nineteen instructions that end by R352's commit delivers, as format, register, result and Rc. -/
def arithForm : Instr → State → Option (FpFormat × FprNum × FpResult × Bool)
  | .fadd frd fra frb _ rc, s =>
    some (.double, frd, fpAdd .double (roundingMode s.fpscr) false (s.fpr fra) (s.fpr frb), rc)
  | .fadds frd fra frb _ rc, s =>
    some (.single, frd, fpAdd .single (roundingMode s.fpscr) false (s.fpr fra) (s.fpr frb), rc)
  | .fsub frd fra frb _ rc, s =>
    some (.double, frd, fpAdd .double (roundingMode s.fpscr) true (s.fpr fra) (s.fpr frb), rc)
  | .fsubs frd fra frb _ rc, s =>
    some (.single, frd, fpAdd .single (roundingMode s.fpscr) true (s.fpr fra) (s.fpr frb), rc)
  | .fmul frd fra _ frc rc, s =>
    some (.double, frd, fpMul .double (roundingMode s.fpscr) (s.fpr fra) (s.fpr frc), rc)
  | .fmuls frd fra _ frc rc, s =>
    some (.single, frd, fpMul .single (roundingMode s.fpscr) (s.fpr fra) (s.fpr frc), rc)
  | .fdiv frd fra frb _ rc, s =>
    some (.double, frd, fpDiv .double (roundingMode s.fpscr) (s.fpr fra) (s.fpr frb), rc)
  | .fdivs frd fra frb _ rc, s =>
    some (.single, frd, fpDiv .single (roundingMode s.fpscr) (s.fpr fra) (s.fpr frb), rc)
  | .fmadd frd fra frb frc rc, s =>
    some (.double, frd, fpMulAdd .double (roundingMode s.fpscr) false (s.fpr fra) (s.fpr frc) (s.fpr frb), rc)
  | .fmadds frd fra frb frc rc, s =>
    some (.single, frd, fpMulAdd .single (roundingMode s.fpscr) false (s.fpr fra) (s.fpr frc) (s.fpr frb), rc)
  | .fmsub frd fra frb frc rc, s =>
    some (.double, frd, fpMulAdd .double (roundingMode s.fpscr) true (s.fpr fra) (s.fpr frc) (s.fpr frb), rc)
  | .fmsubs frd fra frb frc rc, s =>
    some (.single, frd, fpMulAdd .single (roundingMode s.fpscr) true (s.fpr fra) (s.fpr frc) (s.fpr frb), rc)
  | .fnmadd frd fra frb frc rc, s =>
    some (.double, frd, negateResult (fpMulAdd .double (roundingMode s.fpscr) false (s.fpr fra) (s.fpr frc) (s.fpr frb)), rc)
  | .fnmadds frd fra frb frc rc, s =>
    some (.single, frd, negateResult (fpMulAdd .single (roundingMode s.fpscr) false (s.fpr fra) (s.fpr frc) (s.fpr frb)), rc)
  | .fnmsub frd fra frb frc rc, s =>
    some (.double, frd, negateResult (fpMulAdd .double (roundingMode s.fpscr) true (s.fpr fra) (s.fpr frc) (s.fpr frb)), rc)
  | .fnmsubs frd fra frb frc rc, s =>
    some (.single, frd, negateResult (fpMulAdd .single (roundingMode s.fpscr) true (s.fpr fra) (s.fpr frc) (s.fpr frb)), rc)
  | .fres frd _ frb _ rc, s => some (.single, frd, fpRes s.params.fresMode (roundingMode s.fpscr) (s.fpr frb), rc)
  | .frsqrte frd _ frb _ rc, s => some (.double, frd, fpRsqrte s.params.frsqrteMode (s.fpr frb), rc)
  | .frsp frd _ frb rc, s => some (.single, frd, fpRoundToSingle (roundingMode s.fpscr) (s.fpr frb), rc)
  | _, _ => none

/-- R348: the class of a result, the five bits C, FL, FG, FE, FU. -/
def classBits (fmt : FpFormat) (d : DWord) : BitVec 5 :=
  if isFinite d = false then
    if d.extractLsb' 0 52 ≠ 0 then 0b10001 else if d.getMsbD 0 then 0b01001 else 0b00101
  else if valueOf d = 0 then (if d.getMsbD 0 then 0b10010 else 0b00010)
  else if |valueOf d| < 2 ^ fmt.emin then (if d.getMsbD 0 then 0b11000 else 0b10100)
  else (if d.getMsbD 0 then 0b01000 else 0b00100)

/-- The exception bits of FPSCR: 3 to 12 and 21 to 23 (10_state.md R37). -/
def isExceptionBit (k : Nat) : Bool := (decide (3 ≤ k) && decide (k ≤ 12)) || (decide (21 ≤ k) && decide (k ≤ 23))

/-- R37: VX is the OR of the nine invalid-operation bits, and FEX the OR of the five enabled summary bits. -/
def derivedBits (w : Word) : Prop :=
  w.getMsbD 2 = (w.getMsbD 7 || w.getMsbD 8 || w.getMsbD 9 || w.getMsbD 10 || w.getMsbD 11 || w.getMsbD 12 ||
    w.getMsbD 21 || w.getMsbD 22 || w.getMsbD 23) ∧
  w.getMsbD 1 = ((w.getMsbD 2 && w.getMsbD 24) || (w.getMsbD 3 && w.getMsbD 25) || (w.getMsbD 4 && w.getMsbD 26) ||
    (w.getMsbD 5 && w.getMsbD 27) || (w.getMsbD 6 && w.getMsbD 28))

/-- Whether an exception bit is 1 in the new word and was 0 in the old. -/
def newException (old new : Word) : Prop := ∃ k, isExceptionBit k = true ∧ new.getMsbD k = true ∧ old.getMsbD k = false

/-- R349, bit by bit: exception bits accumulate `flags`; bits 13 to 19 are those of `status` (FR, FI, FPRF); bits 20 and 24 to 31
are kept; FX is set where an exception bit went up, else kept; VX and FEX are derived. -/
def committed (old flags : Word) (status : Nat → Bool) (new : Word) : Prop :=
  (∀ k, isExceptionBit k = true → new.getMsbD k = (old.getMsbD k || flags.getMsbD k)) ∧
    (∀ k, 13 ≤ k → k ≤ 19 → new.getMsbD k = status k) ∧
    (∀ k, k = 20 ∨ 24 ≤ k → new.getMsbD k = old.getMsbD k) ∧
    (newException old new → new.getMsbD 0 = true) ∧
    (¬ newException old new → new.getMsbD 0 = old.getMsbD 0) ∧
    derivedBits new

/-- R350: with Rc, the CR field P6 names holds FX, FEX, VX, OX of the new FPSCR; without, CR is unchanged. -/
def floatRecord (rc : Bool) (s t : State) : Prop :=
  if rc then
    crField (BitVec.ofNat 3 s.params.fpRecordField.val) (t.fpscr.getMsbD 0) (t.fpscr.getMsbD 1) (t.fpscr.getMsbD 2)
      (t.fpscr.getMsbD 3) s t
  else t.cr = s.cr

/-- Whether a pattern that is no NaN is less than another: finite patterns by value, infinities as extremes (R374). -/
def floatLess (a b : DWord) : Prop :=
  if isFinite a = true ∧ isFinite b = true then valueOf a < valueOf b
  else a ≠ b ∧ (a = 0xFFF0000000000000 ∨ b = 0x7FF0000000000000)

/-- R374: the four bits of a comparison: less, greater, equal, unordered. -/
def floatOrder (a b : DWord) (lt gt eq un : Bool) : Prop :=
  (un = true ↔ isNaN a = true ∨ isNaN b = true) ∧
    (lt = true ↔ un = false ∧ floatLess a b) ∧
    (gt = true ↔ un = false ∧ floatLess b a) ∧
    (eq = true ↔ un = false ∧ ¬ floatLess a b ∧ ¬ floatLess b a)

end Sys2Proof.Machine
end

