-- ==== Sys2Proof/Certificates/Slice0/Obligations.lean ====
section
/-! DEFINITION. The statements about the model. Each docstring names the rules of spec/ a statement formalises; where a clause is
the model's own choice it names the log entry (notes/assumptions/<n>.md). `Ends i s P` says that the instruction completes its
execution in a next state with the property P, so a statement of that form is also the instruction's completion. -/

section

open Sys2Proof Sys2Proof.Machine

/-! ## Encoding -/

/-- A few words written out bit by bit from 30_encoding.md, one for each family of the opcode table, and two of no row. -/
def Obligations.DecodeWords : Prop :=
  decode 0b001110_00011_00000_0000000000000101 = .ok (.addi 3 0 5) ∧
  decode 0b011111_00011_00100_00101_1_100001010_1 = .ok (.add 3 4 5 true true) ∧
  decode 0b010101_00100_00011_01000_00000_10111_0 = .ok (.rlwinm 4 3 8 0 23 false) ∧
  decode 0b100000_00011_00001_1111111111111100 = .ok (.lwz 3 1 0xFFFC) ∧
  decode 0b011111_00011_01000_00000_0101010011_0 = .ok (.mfspr 3 8 0) ∧
  decode 0b111111_00001_00010_00011_00100_11101_0 = .ok (.fmadd 1 2 3 4 false) ∧
  decode 0b110000_00001_00100_0000000000001000 = .ok (.lfs 1 4 8) ∧
  decode 0b010000_01100_00010_00000000000100_0_0 = .ok (.bc 12 2 4 false false) ∧
  decode 0b010001_00000_00000_00000000000000_1_0 = .ok (.sc 2) ∧
  decode 0b011111_00011_00000_00101_0000010100_0 = .ok (.lwarx 3 0 5 0) ∧
  decode 0 = .error .unknown ∧
  decode 0b111111_00001_00010_00011_00000_10110_0 = .error .unknown63

/-- 30_encoding.md R92 to R101: the word of any instruction, with every operand at every value and the reserved bits included,
decodes to the instruction; and a word that decodes is the word of the instruction it decodes to, so no bit is dropped. -/
def Obligations.DecodeEncode : Prop :=
  (∀ i : Instr, decode (encode i) = .ok i) ∧ ∀ (w : Word) (i : Instr), decode w = .ok i → encode i = w

/-- R102: a word selects the unique row of the table with `w & mask = match`, no two rows match one word, and a word that no row
matches is unknown. -/
def Obligations.OpcodeTable : Prop :=
  (∀ (w : Word) (i : Instr), decode w = .ok i → i.row ∈ opcodeRows ∧ i.row.selects w = true) ∧
    (∀ (w : Word) (r : OpcodeRow), r ∈ opcodeRows → r.selects w = true → ∃ i, decode w = .ok i ∧ i.row = r) ∧
    (∀ (w : Word) (r q : OpcodeRow), r ∈ opcodeRows → q ∈ opcodeRows → r.selects w = true → q.selects w = true → r = q)

/-! ## The step and the loop -/

/-- 40_dispatcher.md R131, R138: where the loop runs, the port is hooked, PC is a multiple of 4 and the port answers there, the turn
ticks the time base, executes the instruction that the four big-endian bytes at PC decode to, and stops the loop where R139 says.
Others may come before the question for the connection and again before the fetch (20_memory.md R74; 70_reset_and_hazards.md
R592): `c` is what the one meets, `u` what the other does. That a step of the model is one turn, and what it records as the outcome,
are the model's choices (logs 1, 2), as is the form others come in (log 6); the tick's amount is free (log 10). -/
def Obligations.StepRunsDecoded : Prop :=
  ∀ (s : State) (i : Instr),
    let c := s.atCall
    let u := c.atCall
    s.running = true → c.port.hooked = true → s.pc.toNat % 4 = 0 → u.port.answers .read s.pc.toNat 4 = true →
    decode (readByte u.mem s.pc.toNat ++ readByte u.mem (s.pc.toNat + 1) ++ readByte u.mem (s.pc.toNat + 2) ++
      readByte u.mem (s.pc.toNat + 3)) = .ok i →
    Ends i { u with tb := s.tb + Config.tbTick s.tickCount, tickCount := s.tickCount + 1 } fun t =>
      step s = .next { t with running := t.running && !(match t.outcome with
        | some o => stopsLoop s.params.haltOnInvalid o
        | none => false) }

/-- R137: a word of no row takes the invalid-instruction path with the tag of the table it fell out of, and changes nothing but
last_invalid, the events and PC; the fetch is one call of the port. The outcome and the events are fields of the model's own
(logs 1, 18), as is the form in which others come before a call (log 6). -/
def Obligations.UndecodableWord : Prop :=
  ∀ (s : State) (w : Word) (e : DecodeError),
    let u := s.atCall
    s.pc.toNat % 4 = 0 → u.port.answers .read s.pc.toNat 4 = true →
    readByte u.mem s.pc.toNat ++ readByte u.mem (s.pc.toNat + 1) ++ readByte u.mem (s.pc.toNat + 2) ++
      readByte u.mem (s.pc.toNat + 3) = w →
    decode w = .error e →
    ∃ tag : Tag,
      dispatchStep s = .next { u with
        lastInvalid := some ⟨tag, s.pc, w⟩
        events := s.events ++ [⟨tag, s.pc, w⟩]
        pc := s.pc + 4
        outcome := some (.invalid ⟨tag, s.pc, w⟩) } ∧
      tag.name = (match (w >>> 26).toNat with
        | 19 => "unknown_19"
        | 31 => "unknown_31"
        | 59 => "unknown_59"
        | 63 => "unknown_63"
        | _ => "unknown")

/-- 60_exceptions.md R547, items 1 to 3 (R138, 20_memory.md R79, R132, R133): a loop that is not running takes no step (log 2); a
port that is not hooked clears `running` and nothing else; a misaligned PC ends the step before any port call, and a port that
does not answer the fetch ends it as a read failure, with no state changed but the outcome the model records (log 1). What a call
meets, and what it leaves, is `s.atCall`: others may come before it (R74, R592; log 6). -/
def Obligations.OrderOfChecks : Prop :=
  ∀ s : State,
    (s.running = false → step s = .fault .loopStopped) ∧
    (s.running = true → s.atCall.port.hooked = false → step s = .next { s.atCall with running := false }) ∧
    (s.pc.toNat % 4 ≠ 0 → dispatchStep s = .next { s with outcome := some (.alignment .fetch s.pc .word) }) ∧
    (s.pc.toNat % 4 = 0 → s.atCall.port.answers .read s.pc.toNat 4 = false →
      dispatchStep s = .next { s.atCall with outcome := some (.memoryFailure .read s.pc .word) })

/-- R139: after a turn that took a step, the loop runs on exactly where the outcome is Ok, or is Invalid and P5 is false. -/
def Obligations.StopRule : Prop :=
  ∀ s t : State, s.running = true → s.atCall.port.hooked = true → step s = .next t →
    ∃ o, t.outcome = some o ∧
      (t.running = true ↔ o.code = 0 ∨ (o.code = 2 ∧ s.params.haltOnInvalid = false))

/-- 10_state.md R44 and 70_reset_and_hazards.md R580: every register that has one at the default of INIT_STATE, "this spec's choice"
(log 4). PC has no default and is left out (log 5). -/
def Obligations.ResetValues : Prop :=
  (∀ r, State.reset.gpr r = 0) ∧ (∀ r, State.reset.fpr r = 0) ∧ State.reset.cr = 0 ∧ State.reset.lr = 0 ∧
    State.reset.ctr = 0 ∧ State.reset.xer = 0 ∧ State.reset.msr = 0 ∧ State.reset.srr0 = 0 ∧ State.reset.srr1 = 0 ∧
    (∀ n, State.reset.sprCell n = 0) ∧ State.reset.tb = 0 ∧ State.reset.fpscr = 0 ∧ State.reset.lastInvalid = none ∧
    State.reset.running = false

/-- The invariant of `InvariantKept` holds at reset, where PC is 0 by the model's choice (log 5). -/
def Obligations.InvariantAtReset : Prop := State.Inv State.reset

/-- Every step keeps the invariant: canonical data, a PC that is a multiple of 4 (R22), derived FPSCR bits (R37), and a loop that
has stopped where its last outcome stops it (R139). -/
def Obligations.InvariantKept : Prop := ∀ s t : State, s.Inv → step s = .next t → t.Inv

/-! ## What holds of every instruction -/

/-- R135 and R23: an instruction that completes and is none of the six that write PC leaves PC at CIA + 4. -/
def Obligations.PcAdvance : Prop :=
  ∀ (i : Instr) (s t : State), writesPc i = false → exec i s = .next t → t.outcome = some .ok → t.pc = s.pc + 4

/-- 40_dispatcher.md R143, R540: every instruction, in every state, ends in a next state with an outcome. 10_state.md R41 (c), R548,
20_memory.md R67 to R69: one that fails changes no register, PC included, and no byte of memory but by the earlier writes of a store
of many accesses: it leaves what others have made of the port by its last call (log 6); an instruction that is reported invalid
changes only what R137 names. -/
def Obligations.FailuresChangeNothing : Prop :=
  (∀ (i : Instr) (s : State), ∃ t o, exec i s = .next t ∧ t.outcome = some o) ∧
  ∀ (i : Instr) (s t : State), exec i s = .next t →
    (∀ o, t.outcome = some o → (o.code = 1 ∨ o.code = 3) →
      t = { s with mem := t.mem, port := t.port, traffic := t.traffic, outcome := some o } ∧
        (isMultiStore i = false → ∃ n, t = { s.afterCalls n with outcome := some o })) ∧
    (∀ d, t.outcome = some (.invalid d) →
      d.pc = s.pc ∧ d.word = encode i ∧
        t = { s with
          lastInvalid := some d
          events := s.events ++ [d]
          pc := s.pc + 4
          outcome := some (.invalid d) })

/-- Who writes what the programmer's registers are not: no instruction writes the time base or `running` (R34, R39); only `sc`,
`rfi` and `mtmsr` write MSR (48_system_unit.md R492); only `sc` and `mtspr` write SRR0 and SRR1 (R30); only the stores and `dcbz`
write memory, and of the port every instruction makes calls alone (log 6); only an invalid instruction writes last_invalid (R38). -/
def Obligations.SystemStateWriters : Prop :=
  ∀ (i : Instr) (s t : State), exec i s = .next t →
    sameSurroundings s t ∧
    (t.msr ≠ s.msr → (∃ z, i = .sc z) ∨ (∃ z6 z11 z16 z31, i = .rfi z6 z11 z16 z31) ∨ ∃ rs z11 z16 z31, i = .mtmsr rs z11 z16 z31) ∧
    (t.srr0 ≠ s.srr0 ∨ t.srr1 ≠ s.srr1 → (∃ z, i = .sc z) ∨ ∃ rs n z, i = .mtspr rs n z) ∧
    onlyCalls (isStore i) s t ∧
    (t.lastInvalid ≠ s.lastInvalid → ∃ d, t.outcome = some (.invalid d) ∧ t.lastInvalid = some d)

/-- R37: after every instruction that changes FPSCR, VX and FEX are what the other bits make them; and an instruction other than
`mtfsfi` and `mtfsf` that takes an exception bit from 0 to 1 sets FX. -/
def Obligations.FpscrDerived : Prop :=
  ∀ (i : Instr) (s t : State), exec i s = .next t →
    (t.fpscr ≠ s.fpscr → derivedBits t.fpscr) ∧
    ((∀ d z9 z11 imm z20 rc, i ≠ .mtfsfi d z9 z11 imm z20 rc) → (∀ z6 fm z15 frb rc, i ≠ .mtfsf z6 fm z15 frb rc) →
      newException s.fpscr t.fpscr → t.fpscr.getMsbD 0 = true)

/-- 60_exceptions.md R560, R545 and 48_system_unit.md R504: no instruction but `sc`, `rfi` and `mfmsr` depends on MSR: with another
MSR it does the same to everything else. -/
def Obligations.MsrHasNoEffect : Prop :=
  ∀ (i : Instr) (s t : State) (m : Word), (∀ z, i ≠ .sc z) → (∀ z6 z11 z16 z31, i ≠ .rfi z6 z11 z16 z31) →
    (∀ rd z11 z16 z31, i ≠ .mfmsr rd z11 z16 z31) → exec i s = .next t →
    Ends i { s with msr := m } fun u => { u with msr := t.msr } = t

/-! ## Fixed-point arithmetic -/

/-- R164, R165, R169: the three immediate forms that set no flag, over exact signed integers. -/
def Obligations.ImmediateArithmetic : Prop :=
  ∀ (rd ra : GprNum) (simm : BitVec 16) (s : State),
    Ends (.addi rd ra simm) s (fixedEnds rd (BitVec.ofInt 32 (baseInt ra s + simm.toInt)) false false none false s) ∧
    Ends (.addis rd ra simm) s
      (fixedEnds rd (BitVec.ofInt 32 (baseInt ra s + simm.toInt * 65536)) false false none false s) ∧
    Ends (.mulli rd ra simm) s
      (fixedEnds rd (BitVec.ofInt 32 ((s.gpr ra).toInt * simm.toInt)) false false none false s)

/-- R166 to R168: the carrying immediate forms; CA from the exact unsigned sum, and for `subfic` from the unsigned comparison. -/
def Obligations.ImmediateCarrying : Prop :=
  ∀ (rd ra : GprNum) (simm : BitVec 16) (s : State),
    Ends (.addic rd ra simm) s
      (fixedEnds rd (BitVec.ofInt 32 ((s.gpr ra).toInt + simm.toInt)) false false
        (some (decide (2 ^ 32 ≤ (s.gpr ra).toNat + (simm.signExtend 32).toNat))) false s) ∧
    Ends (.addicDot rd ra simm) s
      (fixedEnds rd (BitVec.ofInt 32 ((s.gpr ra).toInt + simm.toInt)) false false
        (some (decide (2 ^ 32 ≤ (s.gpr ra).toNat + (simm.signExtend 32).toNat))) true s) ∧
    Ends (.subfic rd ra simm) s
      (fixedEnds rd (BitVec.ofInt 32 (simm.toInt - (s.gpr ra).toInt)) false false
        (some (decide ((s.gpr ra).toNat ≤ (simm.signExtend 32).toNat))) false s)

/-- R170, R175, R180, R181 with R161, R162: the result modulo 2^32 of the exact signed operation, OV where it does not fit. -/
def Obligations.AddSubtractMultiply : Prop :=
  ∀ (rd ra rb : GprNum) (z : BitVec 5) (oe rc : Bool) (s : State),
    Ends (.add rd ra rb oe rc) s
      (fixedEnds rd (BitVec.ofInt 32 ((s.gpr ra).toInt + (s.gpr rb).toInt)) oe
        (notFits ((s.gpr ra).toInt + (s.gpr rb).toInt)) none rc s) ∧
    Ends (.subf rd ra rb oe rc) s
      (fixedEnds rd (BitVec.ofInt 32 ((s.gpr rb).toInt - (s.gpr ra).toInt)) oe
        (notFits ((s.gpr rb).toInt - (s.gpr ra).toInt)) none rc s) ∧
    Ends (.neg rd ra z oe rc) s
      (fixedEnds rd (BitVec.ofInt 32 (-(s.gpr ra).toInt)) oe (notFits (-(s.gpr ra).toInt)) none rc s) ∧
    Ends (.mullw rd ra rb oe rc) s
      (fixedEnds rd (BitVec.ofInt 32 ((s.gpr ra).toInt * (s.gpr rb).toInt)) oe
        (notFits ((s.gpr ra).toInt * (s.gpr rb).toInt)) none rc s)

/-- R171 to R174 with R161 to R163: the carrying adds; result and OV from the exact signed sum, CA from the exact unsigned one. -/
def Obligations.AddCarrying : Prop :=
  ∀ (rd ra rb : GprNum) (z : BitVec 5) (oe rc : Bool) (s : State),
    Ends (.addc rd ra rb oe rc) s
      (fixedEnds rd (BitVec.ofInt 32 ((s.gpr ra).toInt + (s.gpr rb).toInt)) oe
        (notFits ((s.gpr ra).toInt + (s.gpr rb).toInt))
        (some (decide (2 ^ 32 ≤ (s.gpr ra).toNat + (s.gpr rb).toNat))) rc s) ∧
    Ends (.adde rd ra rb oe rc) s
      (fixedEnds rd (BitVec.ofInt 32 ((s.gpr ra).toInt + (s.gpr rb).toInt + caInt s)) oe
        (notFits ((s.gpr ra).toInt + (s.gpr rb).toInt + caInt s))
        (some (decide (2 ^ 32 ≤ (s.gpr ra).toNat + (s.gpr rb).toNat + caNat s))) rc s) ∧
    Ends (.addme rd ra z oe rc) s
      (fixedEnds rd (BitVec.ofInt 32 ((s.gpr ra).toInt - 1 + caInt s)) oe (notFits ((s.gpr ra).toInt - 1 + caInt s))
        (some (decide (s.gpr ra ≠ 0 ∨ caNat s = 1))) rc s) ∧
    Ends (.addze rd ra z oe rc) s
      (fixedEnds rd (BitVec.ofInt 32 ((s.gpr ra).toInt + caInt s)) oe (notFits ((s.gpr ra).toInt + caInt s))
        (some (decide (2 ^ 32 ≤ (s.gpr ra).toNat + caNat s))) rc s)

/-- R176 to R179 with R161 to R163: the carrying subtracts; CA says no borrow. -/
def Obligations.SubtractCarrying : Prop :=
  ∀ (rd ra rb : GprNum) (z : BitVec 5) (oe rc : Bool) (s : State),
    Ends (.subfc rd ra rb oe rc) s
      (fixedEnds rd (BitVec.ofInt 32 ((s.gpr rb).toInt - (s.gpr ra).toInt)) oe
        (notFits ((s.gpr rb).toInt - (s.gpr ra).toInt))
        (some (decide ((s.gpr ra).toNat ≤ (s.gpr rb).toNat))) rc s) ∧
    Ends (.subfe rd ra rb oe rc) s
      (fixedEnds rd (BitVec.ofInt 32 ((s.gpr rb).toInt - (s.gpr ra).toInt - 1 + caInt s)) oe
        (notFits ((s.gpr rb).toInt - (s.gpr ra).toInt - 1 + caInt s))
        (some (decide ((s.gpr ra).toNat + 1 ≤ (s.gpr rb).toNat + caNat s))) rc s) ∧
    Ends (.subfme rd ra z oe rc) s
      (fixedEnds rd (BitVec.ofInt 32 (-(s.gpr ra).toInt - 2 + caInt s)) oe
        (notFits (-(s.gpr ra).toInt - 2 + caInt s))
        (some (decide (s.gpr ra ≠ 0xFFFFFFFF ∨ caNat s = 1))) rc s) ∧
    Ends (.subfze rd ra z oe rc) s
      (fixedEnds rd (BitVec.ofInt 32 (-(s.gpr ra).toInt - 1 + caInt s)) oe
        (notFits (-(s.gpr ra).toInt - 1 + caInt s))
        (some (decide (s.gpr ra = 0 ∧ caNat s = 1))) rc s)

/-- R182, R183: the high words; with the low word of the product they make up the exact signed and unsigned products. -/
def Obligations.MultiplyHigh : Prop :=
  ∀ (rd ra rb : GprNum) (rc : Bool) (s : State),
    Ends (.mulhw rd ra rb rc) s (fun t =>
      fixedEnds rd (t.gpr rd) false false none rc s t ∧
        (t.gpr rd).toInt * 2 ^ 32 + ((s.gpr ra * s.gpr rb).toNat : Int) = (s.gpr ra).toInt * (s.gpr rb).toInt) ∧
    Ends (.mulhwu rd ra rb rc) s (fun t =>
      fixedEnds rd (t.gpr rd) false false none rc s t ∧
        (t.gpr rd).toNat * 2 ^ 32 + (s.gpr ra * s.gpr rb).toNat = (s.gpr ra).toNat * (s.gpr rb).toNat)

/-- R184, R185: the quotient truncated toward zero, and 0 with OV in the corner cases; all of it without a failure. -/
def Obligations.Divide : Prop :=
  ∀ (rd ra rb : GprNum) (oe rc : Bool) (s : State),
    Ends (.divw rd ra rb oe rc) s (fun t =>
      if s.gpr rb = 0 ∨ (s.gpr ra = 0x80000000 ∧ s.gpr rb = 0xFFFFFFFF) then fixedEnds rd 0 oe true none rc s t
      else fixedEnds rd (t.gpr rd) oe false none rc s t ∧
        (t.gpr rd).toInt = (s.gpr ra).toInt.tdiv (s.gpr rb).toInt) ∧
    Ends (.divwu rd ra rb oe rc) s (fun t =>
      if s.gpr rb = 0 then fixedEnds rd 0 oe true none rc s t
      else fixedEnds rd (t.gpr rd) oe false none rc s t ∧
        (t.gpr rd).toNat = (s.gpr ra).toNat / (s.gpr rb).toNat)

/-! ## Logical, compare, rotate, shift -/

/-- R201 to R206: the logical immediates, bit by bit (MSB-0); the destination is RA. -/
def Obligations.LogicalImmediate : Prop :=
  ∀ (rs ra : GprNum) (u : BitVec 16) (s : State),
    Ends (.andiDot rs ra u) s
      (logicalEnds ra (fun k => (s.gpr rs).getMsbD k && (decide (16 ≤ k) && u.getMsbD (k - 16))) true s) ∧
    Ends (.andisDot rs ra u) s (logicalEnds ra (fun k => (s.gpr rs).getMsbD k && u.getMsbD k) true s) ∧
    Ends (.ori rs ra u) s
      (logicalEnds ra (fun k => (s.gpr rs).getMsbD k || (decide (16 ≤ k) && u.getMsbD (k - 16))) false s) ∧
    Ends (.oris rs ra u) s (logicalEnds ra (fun k => (s.gpr rs).getMsbD k || u.getMsbD k) false s) ∧
    Ends (.xori rs ra u) s
      (logicalEnds ra (fun k => (s.gpr rs).getMsbD k ^^ (decide (16 ≤ k) && u.getMsbD (k - 16))) false s) ∧
    Ends (.xoris rs ra u) s (logicalEnds ra (fun k => (s.gpr rs).getMsbD k ^^ u.getMsbD k) false s)

/-- R207 to R214 with R161: the logical register forms, bit by bit. -/
def Obligations.LogicalRegister : Prop :=
  ∀ (rs ra rb : GprNum) (rc : Bool) (s : State),
    Ends (.and rs ra rb rc) s (logicalEnds ra (fun k => (s.gpr rs).getMsbD k && (s.gpr rb).getMsbD k) rc s) ∧
    Ends (.or rs ra rb rc) s (logicalEnds ra (fun k => (s.gpr rs).getMsbD k || (s.gpr rb).getMsbD k) rc s) ∧
    Ends (.xor rs ra rb rc) s (logicalEnds ra (fun k => (s.gpr rs).getMsbD k ^^ (s.gpr rb).getMsbD k) rc s) ∧
    Ends (.nand rs ra rb rc) s (logicalEnds ra (fun k => !((s.gpr rs).getMsbD k && (s.gpr rb).getMsbD k)) rc s) ∧
    Ends (.nor rs ra rb rc) s (logicalEnds ra (fun k => !((s.gpr rs).getMsbD k || (s.gpr rb).getMsbD k)) rc s) ∧
    Ends (.andc rs ra rb rc) s (logicalEnds ra (fun k => (s.gpr rs).getMsbD k && !(s.gpr rb).getMsbD k) rc s) ∧
    Ends (.orc rs ra rb rc) s (logicalEnds ra (fun k => (s.gpr rs).getMsbD k || !(s.gpr rb).getMsbD k) rc s) ∧
    Ends (.eqv rs ra rb rc) s (logicalEnds ra (fun k => !((s.gpr rs).getMsbD k ^^ (s.gpr rb).getMsbD k)) rc s)

/-- R215 to R217 with R161: sign extension repeats the sign bit upward; the count is the number of leading zero bits. -/
def Obligations.ExtendAndCount : Prop :=
  ∀ (rs ra : GprNum) (z : BitVec 5) (rc : Bool) (s : State),
    Ends (.extsb rs ra z rc) s (logicalEnds ra (fun k => (s.gpr rs).getMsbD (max k 24)) rc s) ∧
    Ends (.extsh rs ra z rc) s (logicalEnds ra (fun k => (s.gpr rs).getMsbD (max k 16)) rc s) ∧
    Ends (.cntlzw rs ra z rc) s (fun t =>
      fixedEnds ra (t.gpr ra) false false none rc s t ∧ (t.gpr ra).toNat ≤ 32 ∧
        (∀ k, k < (t.gpr ra).toNat → (s.gpr rs).getMsbD k = false) ∧
        ((t.gpr ra).toNat < 32 → (s.gpr rs).getMsbD (t.gpr ra).toNat = true))

/-- R218 to R221: the compares, signed and unsigned, over exact integers; the L bit is not read. -/
def Obligations.Compare : Prop :=
  ∀ (crfD : CrField) (z9 z31 : BitVec 1) (l : Bool) (ra rb : GprNum) (im : BitVec 16) (s : State),
    Ends (.cmpi crfD z9 l ra im) s (fun t => crOnly s t ∧
      crField crfD (decide ((s.gpr ra).toInt < im.toInt)) (decide (im.toInt < (s.gpr ra).toInt))
        (decide ((s.gpr ra).toInt = im.toInt)) (s.xer.getMsbD 0) s t) ∧
    Ends (.cmp crfD z9 l ra rb z31) s (fun t => crOnly s t ∧
      crField crfD (decide ((s.gpr ra).toInt < (s.gpr rb).toInt)) (decide ((s.gpr rb).toInt < (s.gpr ra).toInt))
        (decide (s.gpr ra = s.gpr rb)) (s.xer.getMsbD 0) s t) ∧
    Ends (.cmpli crfD z9 l ra im) s (fun t => crOnly s t ∧
      crField crfD (decide ((s.gpr ra).toNat < im.toNat)) (decide (im.toNat < (s.gpr ra).toNat))
        (decide ((s.gpr ra).toNat = im.toNat)) (s.xer.getMsbD 0) s t) ∧
    Ends (.cmpl crfD z9 l ra rb z31) s (fun t => crOnly s t ∧
      crField crfD (decide ((s.gpr ra).toNat < (s.gpr rb).toNat)) (decide ((s.gpr rb).toNat < (s.gpr ra).toNat))
        (decide (s.gpr ra = s.gpr rb)) (s.xer.getMsbD 0) s t)

/-- R222 to R225 with R161: bit `k` of a rotated word is bit `k + n` modulo 32 of the source, kept where MASK has a one. -/
def Obligations.Rotate : Prop :=
  ∀ (rs ra rb : GprNum) (sh mb me : BitVec 5) (rc : Bool) (s : State),
    Ends (.rlwinm rs ra sh mb me rc) s
      (logicalEnds ra (fun k => inMask mb me k && (s.gpr rs).getMsbD ((k + sh.toNat) % 32)) rc s) ∧
    Ends (.rlwimi rs ra sh mb me rc) s
      (logicalEnds ra (fun k =>
        if inMask mb me k then (s.gpr rs).getMsbD ((k + sh.toNat) % 32) else (s.gpr ra).getMsbD k) rc s) ∧
    Ends (.rlwnm rs ra rb mb me rc) s
      (logicalEnds ra (fun k => inMask mb me k && (s.gpr rs).getMsbD ((k + (s.gpr rb).toNat % 32) % 32)) rc s)

/-- R226 to R229 with R161: shifts bit by bit, with a six-bit count where it comes from a register; the arithmetic ones write CA,
set where the source is negative and a one was lost. -/
def Obligations.Shift : Prop :=
  ∀ (rs ra rb : GprNum) (sh : BitVec 5) (rc : Bool) (s : State),
    Ends (.slw rs ra rb rc) s (logicalEnds ra (fun k => (s.gpr rs).getMsbD (k + (s.gpr rb).toNat % 64)) rc s) ∧
    Ends (.srw rs ra rb rc) s
      (logicalEnds ra (fun k =>
        decide ((s.gpr rb).toNat % 64 ≤ k) && (s.gpr rs).getMsbD (k - (s.gpr rb).toNat % 64)) rc s) ∧
    Ends (.sraw rs ra rb rc) s (fun t =>
      (∀ k, k < 32 → (t.gpr ra).getMsbD k = (s.gpr rs).getMsbD (k - (s.gpr rb).toNat % 64)) ∧
        fixedEnds ra (t.gpr ra) false false
          (some ((s.gpr rs).getMsbD 0 && decide ((s.gpr rs).toNat % 2 ^ ((s.gpr rb).toNat % 64) ≠ 0))) rc s t) ∧
    Ends (.srawi rs ra sh rc) s (fun t =>
      (∀ k, k < 32 → (t.gpr ra).getMsbD k = (s.gpr rs).getMsbD (k - sh.toNat)) ∧
        fixedEnds ra (t.gpr ra) false false
          (some ((s.gpr rs).getMsbD 0 && decide ((s.gpr rs).toNat % 2 ^ sh.toNat ≠ 0))) rc s t)

/-! ## Loads and stores

`s.atCall` is what the one port call of a load or store meets, and `s.afterCalls n` what the n-th of several does: another process may
have come before it (20_memory.md R74; 70_reset_and_hazards.md R592 (c); log 6). The bytes read are those of that image, and a
byte outside the bytes stored reads as in it. Where no traffic is left, both are `s`. -/

/-- 43_fixed_point_load_store.md R250: the effective addresses, as sums modulo 2^32 of natural numbers and signed displacements. -/
def Obligations.EffectiveAddresses : Prop :=
  ∀ (s : State) (ra rb : GprNum) (d : BitVec 16),
    ((s.eaD ra d).toNat : Int) = ((if ra = 0 then 0 else ((s.gpr ra).toNat : Int)) + d.toInt) % 2 ^ 32 ∧
    ((s.eaDU ra d).toNat : Int) = (((s.gpr ra).toNat : Int) + d.toInt) % 2 ^ 32 ∧
    (s.eaX ra rb).toNat = ((if ra = 0 then 0 else (s.gpr ra).toNat) + (s.gpr rb).toNat) % 2 ^ 32 ∧
    (s.eaXU ra rb).toNat = ((s.gpr ra).toNat + (s.gpr rb).toNat) % 2 ^ 32 ∧
    (s.raOrZero ra).toNat = if ra = 0 then 0 else (s.gpr ra).toNat

/-- R251 to R268, R290, R291, 20_memory.md R62: the eighteen loads of one access complete where EA is aligned and the port answers;
the register holds the big-endian value of the bytes at EA, zero- or sign-extended or byte-reversed, and an update form then writes
EA to its base register. -/
def Obligations.Loads : Prop :=
  ∀ (i : Instr) (s : State) (f : LoadForm), loadForm i s = some f →
    f.ea.toNat % f.width.bytes = 0 → s.atCall.port.answers .read f.ea.toNat f.width.bytes = true →
    Ends i s fun t => gprsOnly s.atCall t ∧
      loadedInto f.rd (f.value fun k => readByte s.atCall.mem (f.ea.toNat + k)) f.base f.ea s t

/-- R251, R252, R269 to R280, R292, R293, R62: the fourteen stores of one access complete where EA is aligned and the port answers;
the low bytes of the register stand at EA, most significant first or reversed, no other byte of memory changes, and an update form
writes EA to its base register. -/
def Obligations.Stores : Prop :=
  ∀ (i : Instr) (s : State) (f : StoreForm), storeForm i s = some f →
    f.ea.toNat % f.width.bytes = 0 → s.atCall.port.answers .write f.ea.toNat f.width.bytes = true →
    Ends i s fun t => storeOnly s.atCall t ∧ f.bytes.length = f.width.bytes ∧
      bytesStored f.ea.toNat f.bytes s.atCall t ∧ baseUpdated f.base f.ea s t

/-- 46_floating_point_load_store.md R420, R423 to R430: the eight floating-point loads; FPSCR is not touched. -/
def Obligations.FloatLoads : Prop :=
  ∀ (i : Instr) (s : State) (f : FloatLoadForm), floatLoadForm i s = some f →
    f.ea.toNat % f.width.bytes = 0 → s.atCall.port.answers .read f.ea.toNat f.width.bytes = true →
    Ends i s fun t => floatLoadOnly s.atCall t ∧
      onlyFpr f.frd (f.value fun k => readByte s.atCall.mem (f.ea.toNat + k)) s t ∧ baseUpdated f.base f.ea s t

/-- R420, R431 to R439: the nine floating-point stores. -/
def Obligations.FloatStores : Prop :=
  ∀ (i : Instr) (s : State) (f : StoreForm), floatStoreForm i s = some f →
    f.ea.toNat % f.width.bytes = 0 → s.atCall.port.answers .write f.ea.toNat f.width.bytes = true →
    Ends i s fun t => storeOnly s.atCall t ∧ f.bytes.length = f.width.bytes ∧
      bytesStored f.ea.toNat f.bytes s.atCall t ∧ baseUpdated f.base f.ea s t

/-- R252, 20_memory.md R66 to R68 and the order of R547: where EA is misaligned the access ends in an alignment violation, whatever
the port would answer; where it is aligned and the port does not answer, in a memory failure; either way nothing else changes. -/
def Obligations.SingleAccessFails : Prop :=
  ∀ (i : Instr) (s : State) (rw : Rw) (ea : Word) (w : Width), singleAccess i s = some (rw, ea, w) →
    (ea.toNat % w.bytes ≠ 0 → exec i s = .next { s with outcome := some (.alignment .data ea w) }) ∧
    (ea.toNat % w.bytes = 0 → s.atCall.port.answers rw ea.toNat w.bytes = false →
      exec i s = .next { s.atCall with outcome := some (.memoryFailure rw ea w) })

/-- R294, R296, R297, R300: the loads of many accesses complete where the port answers each; register RD + j modulo 32 gets the next
four bytes of memory, the last one padded with zero, and every register beyond keeps its value. -/
def Obligations.MultipleLoads : Prop :=
  ∀ (i : Instr) (s : State) (f : MultiLoadForm), multiLoadForm i s = some f →
    (∀ k, k < f.count → (s.afterCalls (k + 1)).port.answers .read (f.address k).toNat f.width.bytes = true) →
    Ends i s fun t => gprsOnly (s.afterCalls f.count) t ∧ ∀ j, j < 32 →
      t.gpr (f.rd + BitVec.ofNat 5 j) =
        if 4 * j < f.total then f.byte s j 0 ++ f.byte s j 1 ++ f.byte s j 2 ++ f.byte s j 3
        else s.gpr (f.rd + BitVec.ofNat 5 j)

/-- R295, R298 to R300, 48_system_unit.md R500: the stores of many accesses complete where the port answers each; every access has
stored its bytes over what its call met, and no other byte of memory and no register changes; where nobody comes between, all the
bytes stand at the end. The blocks of `dcbz` are powers of two (log 16). -/
def Obligations.MultipleStores : Prop :=
  ∀ (i : Instr) (s : State) (w : Width) (l : List (Word × List Byte)), multiStoreForm i s = some (w, l) →
    (∀ (k : Nat) (h : k < l.length), (s.afterCalls (k + 1)).port.answers .write l[k].1.toNat w.bytes = true) →
    (∀ c ∈ l, c.2.length = w.bytes) ∧
    Ends i s fun t =>
      (∃ u, StoresTo l s u ∧ t = { u with pc := s.pc + 4, outcome := some .ok }) ∧
      (s.traffic = [] → firstStored l l.length s t)

/-- R69, R66: where the port answers accesses 0 to k-1 of a multiple access and not access k, the step ends in that memory failure; a
load has written no register, and of a store exactly the first k writes have happened. That is the model's reading (log 17): R69
also lets a reader take the range as unknown after a failure. `lmw` and `stmw` with an EA that is no multiple of 4 end in an
alignment violation before any port call. -/
def Obligations.MultipleAccessFails : Prop :=
  (∀ (i : Instr) (s : State) (f : MultiLoadForm) (k : Nat), multiLoadForm i s = some f → k < f.count →
    (∀ j, j < k → (s.afterCalls (j + 1)).port.answers .read (f.address j).toNat f.width.bytes = true) →
    (s.afterCalls (k + 1)).port.answers .read (f.address k).toNat f.width.bytes = false →
    exec i s = .next { s.afterCalls (k + 1) with outcome := some (.memoryFailure .read (f.address k) f.width) }) ∧
  (∀ (i : Instr) (s : State) (w : Width) (l : List (Word × List Byte)) (k : Nat) (h : k < l.length),
    multiStoreForm i s = some (w, l) →
    (∀ (j : Nat) (hj : j < l.length), j < k → (s.afterCalls (j + 1)).port.answers .write l[j].1.toNat w.bytes = true) →
    (s.afterCalls (k + 1)).port.answers .write l[k].1.toNat w.bytes = false →
    Ends i s fun t =>
      (∃ u, StoresTo (l.take k) s u ∧ t = { u.atCall with outcome := some (.memoryFailure .write l[k].1 w) }) ∧
      (s.traffic = [] → firstStored l k s t)) ∧
  (∀ (r ra : GprNum) (d : BitVec 16) (s : State), (s.eaD ra d).toNat % 4 ≠ 0 →
    exec (.lmw r ra d) s = .next { s with outcome := some (.alignment .data (s.eaD ra d) .word) } ∧
    exec (.stmw r ra d) s = .next { s with outcome := some (.alignment .data (s.eaD ra d) .word) })

/-! ## Moves to and from registers -/

/-- 44_fixed_point_moves.md R320, R321, R323, 47_branch_unit.md R465, 48_system_unit.md R503: the moves into a general register, and
the refused numbers. -/
def Obligations.MoveFrom : Prop :=
  ∀ (rd : GprNum) (n : SprNum) (z31 : BitVec 1) (z11 z16 : BitVec 5) (s : State),
    Ends (.mfspr rd n z31) s (fun t =>
      if n.toNat = 284 ∨ n.toNat = 285 then
        t = { s with
          lastInvalid := some ⟨.mfspr, s.pc, encode (.mfspr rd n z31)⟩
          events := s.events ++ [⟨.mfspr, s.pc, encode (.mfspr rd n z31)⟩]
          pc := s.pc + 4
          outcome := some (.invalid ⟨.mfspr, s.pc, encode (.mfspr rd n z31)⟩) }
      else gprsOnly s t ∧ onlyGpr rd
        (if n.toNat = 1 then s.xer else if n.toNat = 8 then s.lr else if n.toNat = 9 then s.ctr
         else if n.toNat = 26 then s.srr0 else if n.toNat = 27 then s.srr1
         else if n.toNat = 268 then BitVec.ofNat 32 (s.tb.toNat % 2 ^ 32)
         else if n.toNat = 269 then BitVec.ofNat 32 (s.tb.toNat / 2 ^ 32)
         else s.sprCell n) s t) ∧
    Ends (.mftb rd n z31) s (fun t =>
      if n.toNat = 268 then gprsOnly s t ∧ onlyGpr rd (BitVec.ofNat 32 (s.tb.toNat % 2 ^ 32)) s t
      else if n.toNat = 269 then gprsOnly s t ∧ onlyGpr rd (BitVec.ofNat 32 (s.tb.toNat / 2 ^ 32)) s t
      else t = { s with
        lastInvalid := some ⟨.mftb, s.pc, encode (.mftb rd n z31)⟩
        events := s.events ++ [⟨.mftb, s.pc, encode (.mftb rd n z31)⟩]
        pc := s.pc + 4
        outcome := some (.invalid ⟨.mftb, s.pc, encode (.mftb rd n z31)⟩) }) ∧
    Ends (.mfcr rd z11 z16 z31) s (fun t => gprsOnly s t ∧ onlyGpr rd s.cr s t) ∧
    Ends (.mfmsr rd z11 z16 z31) s (fun t => gprsOnly s t ∧ onlyGpr rd s.msr s t)

/-- R320, R322, 48_system_unit.md R504, 10_state.md R33: `mtspr` writes all 32 bits of the one register or cell it names, and every
other number reads as before; the four time-base numbers are refused; `mtmsr` writes all of MSR and nothing else. -/
def Obligations.MoveTo : Prop :=
  ∀ (rs : GprNum) (n : SprNum) (z31 : BitVec 1) (z11 z16 : BitVec 5) (s : State),
    Ends (.mtspr rs n z31) s (fun t =>
      if n.toNat = 268 ∨ n.toNat = 269 ∨ n.toNat = 284 ∨ n.toNat = 285 then
        t = { s with
          lastInvalid := some ⟨.mtspr, s.pc, encode (.mtspr rs n z31)⟩
          events := s.events ++ [⟨.mtspr, s.pc, encode (.mtspr rs n z31)⟩]
          pc := s.pc + 4
          outcome := some (.invalid ⟨.mtspr, s.pc, encode (.mtspr rs n z31)⟩) }
      else
        t = { s with
          xer := if n.toNat = 1 then s.gpr rs else s.xer
          lr := if n.toNat = 8 then s.gpr rs else s.lr
          ctr := if n.toNat = 9 then s.gpr rs else s.ctr
          srr0 := if n.toNat = 26 then s.gpr rs else s.srr0
          srr1 := if n.toNat = 27 then s.gpr rs else s.srr1
          sprs := t.sprs
          pc := s.pc + 4
          outcome := some .ok } ∧
        (∀ m, t.readSpr m = if m = n then some (s.gpr rs) else s.readSpr m) ∧ sameImage s t) ∧
    Ends (.mtmsr rs z11 z16 z31) s (fun t =>
      t = { s with msr := s.gpr rs, pc := s.pc + 4, outcome := some .ok } ∧ sameImage s t)

/-- 10_state.md R46: what a move-to writes, the move-from of the same register reads back, for every general register, also where the
two name the same; for FPSCR but bits 1 and 2. -/
def Obligations.RoundTrips : Prop :=
  ∀ (rs rd : GprNum) (frs frd : FprNum) (n : SprNum) (z31 z31' : BitVec 1) (z11 z16 z11' z16' : BitVec 5) (z : BitVec 1)
    (rc rc' : Bool) (s : State),
    (n.toNat ≠ 268 → n.toNat ≠ 269 → n.toNat ≠ 284 → n.toNat ≠ 285 →
      Ends (.mtspr rs n z31) s fun t => Ends (.mfspr rd n z31') t fun u => u.gpr rd = s.gpr rs) ∧
    (Ends (.mtmsr rs z11 z16 z31) s fun t => Ends (.mfmsr rd z11' z16' z31') t fun u => u.gpr rd = s.gpr rs) ∧
    (∀ m : BitVec 8, Ends (.mtcrf rs z m z z31) s fun t => Ends (.mfcr rd z11' z16' z31') t fun u =>
      ∀ k, k < 32 → m.getMsbD (k / 4) = true → (u.gpr rd).getMsbD k = (s.gpr rs).getMsbD k) ∧
    (Ends (.mtfsf z 0xFF z frs rc) s fun t => Ends (.mffs frd z11 z16 rc') t fun u =>
      ∀ k, k < 32 → k ≠ 1 → k ≠ 2 → (u.fpr frd).getMsbD (32 + k) = (s.fpr frs).getMsbD (32 + k))

/-- R324, R464, R466: the moves into CR: `mcrf` copies a field, `mtcrf` the fields its mask selects, `mcrxr` the upper four bits of
XER, which it clears. -/
def Obligations.ConditionMoves : Prop :=
  (∀ (d f : CrField) (z9 z14 : BitVec 2) (z16 : BitVec 5) (z31 : BitVec 1) (s : State),
    Ends (.mcrf d z9 f z14 z16 z31) s fun t => crOnly s t ∧
      ∀ k, k < 32 → t.cr.getMsbD k =
        if k / 4 = d.toNat then s.cr.getMsbD (4 * f.toNat + k % 4) else s.cr.getMsbD k) ∧
  (∀ (rs : GprNum) (z11 z20 z31 : BitVec 1) (m : BitVec 8) (s : State),
    Ends (.mtcrf rs z11 m z20 z31) s fun t => crOnly s t ∧
      ∀ k, k < 32 → t.cr.getMsbD k = if m.getMsbD (k / 4) then (s.gpr rs).getMsbD k else s.cr.getMsbD k) ∧
  (∀ (d : CrField) (z9 : BitVec 2) (z11 z16 : BitVec 5) (z31 : BitVec 1) (s : State),
    Ends (.mcrxr d z9 z11 z16 z31) s fun t => fixedOnly s t ∧ (∀ x, t.gpr x = s.gpr x) ∧
      (∀ k, k < 32 → t.cr.getMsbD k = if k / 4 = d.toNat then s.xer.getMsbD (k % 4) else s.cr.getMsbD k) ∧
      ∀ k, k < 32 → t.xer.getMsbD k = (decide (4 ≤ k) && s.xer.getMsbD k))

/-! ## Branches and condition-register logic -/

/-- R456 to R463: one bit of CR is the combination of two, the other 31 are unchanged. -/
def Obligations.ConditionLogic : Prop :=
  ∀ (d a b : CrBit) (z : BitVec 1) (s : State),
    let ends (v : Bool) (t : State) : Prop := crOnly s t ∧
      ∀ k, k < 32 → t.cr.getMsbD k = if k = d.toNat then v else s.cr.getMsbD k
    let x := s.cr.getMsbD a.toNat
    let y := s.cr.getMsbD b.toNat
    Ends (.crand d a b z) s (ends (x && y)) ∧ Ends (.cror d a b z) s (ends (x || y)) ∧
    Ends (.crxor d a b z) s (ends (x ^^ y)) ∧ Ends (.crnand d a b z) s (ends (!(x && y))) ∧
    Ends (.crnor d a b z) s (ends (!(x || y))) ∧ Ends (.creqv d a b z) s (ends (!(x ^^ y))) ∧
    Ends (.crandc d a b z) s (ends (x && !y)) ∧ Ends (.crorc d a b z) s (ends (x || !y))

/-- R451 to R455, R467: where the branches go, over exact integers; CTR goes down by one exactly where BO[2] is 0, taken or not; LR
gets CIA + 4 where LK is 1, taken or not; nothing else changes. -/
def Obligations.Branches : Prop :=
  ∀ (li : BitVec 24) (bo : BitVec 5) (bi : CrBit) (bd : BitVec 14) (z16 : BitVec 5) (aa lk : Bool) (s : State),
    let ctr' : Word := if bo.getMsbD 2 then s.ctr else BitVec.ofInt 32 (s.ctr.toInt - 1)
    let ctrOk : Bool := bo.getMsbD 2 || (if bo.getMsbD 3 then decide (ctr' = 0) else decide (ctr' ≠ 0))
    let condOk : Bool := bo.getMsbD 0 || decide (s.cr.getMsbD bi.toNat = bo.getMsbD 1)
    let ends (target ctr : Word) (taken : Bool) (t : State) : Prop :=
      t = { s with
        pc := if taken then target else s.pc + 4
        ctr := ctr
        lr := if lk then s.pc + 4 else s.lr
        outcome := some .ok }
    Ends (.b li aa lk) s (ends (BitVec.ofInt 32 ((if aa then 0 else s.pc.toInt) + 4 * li.toInt)) s.ctr true) ∧
    Ends (.bc bo bi bd aa lk) s
      (ends (BitVec.ofInt 32 ((if aa then 0 else s.pc.toInt) + 4 * bd.toInt)) ctr' (ctrOk && condOk)) ∧
    Ends (.bclr bo bi z16 lk) s (ends (BitVec.ofNat 32 (s.lr.toNat / 4 * 4)) ctr' (ctrOk && condOk)) ∧
    Ends (.bcctr bo bi z16 lk) s (ends (BitVec.ofNat 32 (s.ctr.toNat / 4 * 4)) ctr' (ctrOk && condOk))

/-! ## The system unit -/

/-- R491, 60_exceptions.md R549: the system call saves the address after it and thirteen bits of MSR, clears eleven, copies ILE to
LE, and goes to the vector that IP selects; nothing else changes. -/
def Obligations.SystemCall : Prop :=
  ∀ (z : BitVec 26) (s : State),
    Ends (.sc z) s fun t =>
      t = { s with
        srr0 := s.pc + 4
        srr1 := t.srr1
        msr := t.msr
        pc := if s.msr.getMsbD 25 then 0xFFF00C00 else 0x00000C00
        outcome := some .ok } ∧
      (∀ k, k < 32 → t.srr1.getMsbD k = (decide (k ∈ [16, 17, 18, 19, 20, 21, 22, 23, 25, 26, 27, 30, 31]) && s.msr.getMsbD k)) ∧
      ∀ k, k < 32 → t.msr.getMsbD k =
        if k = 31 then s.msr.getMsbD 15
        else if k ∈ [13, 16, 17, 18, 20, 21, 22, 23, 26, 27, 30] then false else s.msr.getMsbD k

/-- R492, 60_exceptions.md R550: the return restores thirteen bits of MSR from SRR1, keeps the others, and goes to SRR0 with its low
two bits cleared; and it undoes a system call. -/
def Obligations.ReturnFromInterrupt : Prop :=
  (∀ (z6 z11 z16 : BitVec 5) (z31 : BitVec 1) (s : State),
    Ends (.rfi z6 z11 z16 z31) s fun t =>
      t = { s with msr := t.msr, pc := BitVec.ofNat 32 (s.srr0.toNat / 4 * 4), outcome := some .ok } ∧
      ∀ k, k < 32 → t.msr.getMsbD k =
        if k ∈ [16, 17, 18, 19, 20, 21, 22, 23, 25, 26, 27, 30, 31] then s.srr1.getMsbD k else s.msr.getMsbD k) ∧
  (∀ (z : BitVec 26) (z6 z11 z16 : BitVec 5) (z31 : BitVec 1) (s : State), s.pc.toNat % 4 = 0 →
    Ends (.sc z) s fun t => Ends (.rfi z6 z11 z16 z31) t fun u =>
      u.pc = s.pc + 4 ∧
      ∀ k ∈ [16, 17, 18, 19, 20, 21, 22, 23, 25, 26, 27, 30, 31], u.msr.getMsbD k = s.msr.getMsbD k)

/-- R493 to R499, R501, R502: the barriers and the cache instructions change nothing but PC, whatever their operands name. -/
def Obligations.NoOps : Prop :=
  ∀ (z6 z11 z16 : BitVec 5) (z31 : BitVec 1) (ra rb : GprNum) (s : State),
    let done := Host.Outcome.next (φ := Fault) (ρ := Refusal) { s with pc := s.pc + 4, outcome := some .ok }
    exec (.sync z6 z11 z16 z31) s = done ∧ exec (.isync z6 z11 z16 z31) s = done ∧ exec (.eieio z6 z11 z16 z31) s = done ∧
    exec (.dcbt z6 ra rb z31) s = done ∧ exec (.dcbtst z6 ra rb z31) s = done ∧ exec (.dcbst z6 ra rb z31) s = done ∧
    exec (.dcbf z6 ra rb z31) s = done ∧ exec (.dcbi z6 ra rb z31) s = done ∧ exec (.icbi z6 ra rb z31) s = done

/-- 49_unimplemented.md R519 to R529: each of the ten records itself under its own mnemonic and its own word, advances PC, and changes
nothing else. -/
def Obligations.Unimplemented : Prop :=
  ∀ (i : Instr) (tag : Tag) (s : State), unimplementedTag i = some tag →
    exec i s = .next { s with
      lastInvalid := some ⟨tag, s.pc, encode i⟩
      events := s.events ++ [⟨tag, s.pc, encode i⟩]
      pc := s.pc + 4
      outcome := some (.invalid ⟨tag, s.pc, encode i⟩) }

/-! ## Floating point -/

/-- R348 to R350, R352 step 5: each of the nineteen arithmetic, rounding and estimate instructions writes its result and commits its
flags, FR, FI and the class of the result to FPSCR; the record form copies the upper four bits to the CR field of P6; no other
register and no byte of memory changes. What the result is, the next statements say. -/
def Obligations.FloatCommit : Prop :=
  ∀ (i : Instr) (s : State) (fmt : FpFormat) (frd : FprNum) (r : FpResult) (rc : Bool),
    arithForm i s = some (fmt, frd, r, rc) →
    Ends i s fun t => floatOnly s t ∧ onlyFpr frd r.value s t ∧
      committed s.fpscr r.flags (fun k =>
        if k = 13 then r.fr else if k = 14 then r.fi else (classBits fmt r.value).getMsbD (k - 15)) t.fpscr ∧
      floatRecord rc s t

/-- R346 (a), (b), R365: a NaN operand, the first in the order frA, frB, frC, is the result, made quiet and never negated; an SNaN
operand sets VXSNAN; nothing else is set. -/
def Obligations.NaNOperands : Prop :=
  ∀ (fmt : FpFormat) (rn : BitVec 2) (flip : Bool) (mode : Estimate) (a b c : DWord),
    (isNaN a = true ∨ isNaN b = true → isNaNResult [a, b] (fpAdd fmt rn flip a b) ∧ isNaNResult [a, b] (fpDiv fmt rn a b)) ∧
    (isNaN a = true ∨ isNaN c = true → isNaNResult [a, c] (fpMul fmt rn a c)) ∧
    (isNaN a = true ∨ isNaN b = true ∨ isNaN c = true →
      isNaNResult [a, b, c] (fpMulAdd fmt rn flip a c b) ∧
      isNaNResult [a, b, c] (negateResult (fpMulAdd fmt rn flip a c b))) ∧
    (isNaN b = true → isNaNResult [b] (fpRes mode rn b) ∧ isNaNResult [b] (fpRsqrte mode b) ∧
      fpRoundToSingle rn b =
        { value := (b ||| 0x0008000000000000) &&& 0xFFFFFFFFE0000000
          flags := if isSNaN b then fpVXSNAN else 0
          fr := false
          fi := false })

/-- R343 to R345, R347, R352 step 3: the sum, difference, product, quotient and fused multiply-add of finite operands is the exact
rational result rounded once, and where that is zero, the zero of the sign R347 gives; `frsp` rounds its operand. -/
def Obligations.FiniteArithmetic : Prop :=
  ∀ (fmt : FpFormat) (rn : BitVec 2) (flip : Bool) (a b c : DWord),
    isFinite a = true → isFinite b = true → isFinite c = true →
    let sb := b.getMsbD 0 ^^ flip
    let sp := a.getMsbD 0 ^^ c.getMsbD 0
    let addend : ℚ := if flip then -valueOf b else valueOf b
    (if valueOf a + addend = 0 then
      isExactZero (if a.getMsbD 0 = sb then sb else decide (rn = 3)) (fpAdd fmt rn flip a b)
     else RoundsTo fmt rn (valueOf a + addend) (fpAdd fmt rn flip a b)) ∧
    (if valueOf a * valueOf c = 0 then isExactZero sp (fpMul fmt rn a c)
     else RoundsTo fmt rn (valueOf a * valueOf c) (fpMul fmt rn a c)) ∧
    (valueOf b ≠ 0 →
      if valueOf a = 0 then isExactZero (a.getMsbD 0 ^^ b.getMsbD 0) (fpDiv fmt rn a b)
      else RoundsTo fmt rn (valueOf a / valueOf b) (fpDiv fmt rn a b)) ∧
    (if valueOf a * valueOf c + addend = 0 then
      isExactZero (if sp = sb then sb else decide (rn = 3)) (fpMulAdd fmt rn flip a c b)
     else RoundsTo fmt rn (valueOf a * valueOf c + addend) (fpMulAdd fmt rn flip a c b)) ∧
    (valueOf b ≠ 0 → RoundsTo .single rn (valueOf b) (fpRoundToSingle rn b)) ∧
    (valueOf b = 0 → isExactZero (b.getMsbD 0) (fpRoundToSingle rn b))

/-- R346 (c) and the special values of R353, R355, R357, R359, R361, R371, with `p` and `m` the infinities: what infinite operands and
a zero divisor give, and which flag. -/
def Obligations.SpecialValues : Prop :=
  ∀ (fmt : FpFormat) (rn : BitVec 2) (flip : Bool) (a b c : DWord),
    isNaN a = false → isNaN b = false → isNaN c = false →
    let sa := a.getMsbD 0
    let sb := b.getMsbD 0 ^^ flip
    let sp := a.getMsbD 0 ^^ c.getMsbD 0
    let sq := a.getMsbD 0 ^^ b.getMsbD 0
    let infA := isFinite a = false
    let infB := isFinite b = false
    let infC := isFinite c = false
    let zeroA := isFinite a = true ∧ valueOf a = 0
    let zeroB := isFinite b = true ∧ valueOf b = 0
    let zeroC := isFinite c = true ∧ valueOf c = 0
    let invalidProduct := (infA ∧ zeroC) ∨ (zeroA ∧ infC)
    let infProduct := (infA ∧ ¬ zeroC) ∨ (infC ∧ ¬ zeroA)
    (infA → infB → sa ≠ sb → isInvalid fpVXISI (fpAdd fmt rn flip a b)) ∧
    (infA → (infB → sa = sb) → isExactInfinity sa (fpAdd fmt rn flip a b)) ∧
    (¬ infA → infB → isExactInfinity sb (fpAdd fmt rn flip a b)) ∧
    (invalidProduct → isInvalid fpVXIMZ (fpMul fmt rn a c) ∧ isInvalid fpVXIMZ (fpMulAdd fmt rn flip a c b)) ∧
    (infProduct → isExactInfinity sp (fpMul fmt rn a c)) ∧
    (infProduct → infB → sp ≠ sb → isInvalid fpVXISI (fpMulAdd fmt rn flip a c b)) ∧
    (infProduct → (infB → sp = sb) → isExactInfinity sp (fpMulAdd fmt rn flip a c b)) ∧
    (¬ infA → ¬ infC → infB → isExactInfinity sb (fpMulAdd fmt rn flip a c b)) ∧
    (infA → infB → isInvalid fpVXIDI (fpDiv fmt rn a b)) ∧
    (zeroA → zeroB → isInvalid fpVXZDZ (fpDiv fmt rn a b)) ∧
    (infA → ¬ infB → isExactInfinity sq (fpDiv fmt rn a b)) ∧
    (¬ infA → infB → isExactZero sq (fpDiv fmt rn a b)) ∧
    (¬ infA → ¬ zeroA → zeroB →
      fpDiv fmt rn a b =
        { value := if sq then 0xFFF0000000000000 else 0x7FF0000000000000, flags := fpZX, fr := false, fi := false }) ∧
    (infB → isExactInfinity (b.getMsbD 0) (fpRoundToSingle rn b))

/-- R365, R367: the negated forms invert the sign of every result that is no NaN, and nothing else of it; for an infinity an
operand brings this is R365's reading, not R352's (log 23). -/
def Obligations.NegatedForms : Prop :=
  ∀ (fmt : FpFormat) (rn : BitVec 2) (flip : Bool) (a b c : DWord),
    let r := fpMulAdd fmt rn flip a c b
    let n := negateResult r
    n.flags = r.flags ∧ n.fr = r.fr ∧ n.fi = r.fi ∧
      (isNaN r.value = true → n.value = r.value) ∧
      (isNaN r.value = false → ∀ k, k < 64 → n.value.getMsbD k = (r.value.getMsbD k ^^ decide (k = 0)))

/-- R342, R343, R369: a single-precision result that is no NaN is a binary32 value held as binary64. -/
def Obligations.SingleResults : Prop :=
  ∀ (i : Instr) (s : State) (frd : FprNum) (r : FpResult) (rc : Bool),
    arithForm i s = some (.single, frd, r, rc) → isNaN r.value = false → ∃ w : Word, r.value = toDouble w

/-- R369, R370: the special values of the estimates. `fres` takes OX and UX from the reciprocal rounded to single and delivers that
rounding, or, where P8 is an implementation's function, also a value within 1/256 of 1/b; within that bound it is always where the
rounding does not overflow and |b| is at most 2^126, so that 1/b is not tiny (log 14). `frsqrte` delivers by default 1/sqrt(b)
rounded to the nearest binary64, whatever RN is, and in both modes of P9 a value within 1/32 of it (log 15). -/
def Obligations.Estimates : Prop :=
  ∀ (mode : Estimate) (rn : BitVec 2) (b : DWord), isNaN b = false →
    (b = 0 → fpRes mode rn b = { value := 0x7FF0000000000000, flags := fpZX, fr := false, fi := false } ∧
      fpRsqrte mode b = { value := 0x7FF0000000000000, flags := fpZX, fr := false, fi := false }) ∧
    (b = 0x8000000000000000 → fpRes mode rn b = { value := 0xFFF0000000000000, flags := fpZX, fr := false, fi := false } ∧
      fpRsqrte mode b = { value := 0xFFF0000000000000, flags := fpZX, fr := false, fi := false }) ∧
    (isFinite b = false → isExactZero (b.getMsbD 0) (fpRes mode rn b)) ∧
    (b = 0x7FF0000000000000 → isExactZero false (fpRsqrte mode b)) ∧
    (b.getMsbD 0 = true → b ≠ 0x8000000000000000 → isInvalid fpVXSQRT (fpRsqrte mode b)) ∧
    (isFinite b = true → valueOf b ≠ 0 → ∃ q, RoundsTo .single rn (1 / valueOf b) q ∧
      (fpRes mode rn b).flags = (q.flags &&& (fpOX ||| fpUX)) ∧ (fpRes mode rn b).fr = false ∧
      (fpRes mode rn b).fi = false ∧ (mode = .correctlyRounded → (fpRes mode rn b).value = q.value) ∧
      ((fpRes mode rn b).value = q.value ∨ isFinite (fpRes mode rn b).value = true ∧
        |valueOf (fpRes mode rn b).value * valueOf b - 1| ≤ 1 / 256) ∧
      (q.flags &&& fpOX = 0 → |valueOf b| ≤ 2 ^ 126 → isFinite (fpRes mode rn b).value = true ∧
        |valueOf (fpRes mode rn b).value * valueOf b - 1| ≤ 1 / 256)) ∧
    (isFinite b = true → 0 < valueOf b →
      (mode = .correctlyRounded → nearestEvenRoot b (fpRsqrte mode b).value) ∧
      (fpRsqrte mode b).flags = 0 ∧ (fpRsqrte mode b).fr = false ∧ (fpRsqrte mode b).fi = false ∧
      0 < valueOf (fpRsqrte mode b).value ∧
      (31 / 32) ^ 2 ≤ valueOf (fpRsqrte mode b).value ^ 2 * valueOf b ∧
      valueOf (fpRsqrte mode b).value ^ 2 * valueOf b ≤ (33 / 32) ^ 2)

/-- R372, R373: the conversions complete, the high word is P7, FPRF is kept; the integer is the value rounded by the mode, saturated
on the rounded value, with the flags of each case. -/
def Obligations.ConvertToInteger : Prop :=
  ∀ (frd frb : FprNum) (z : BitVec 5) (rc : Bool) (s : State),
    let ends (rn : BitVec 2) (t : State) : Prop :=
      let b := s.fpr frb
      let neg := b.getMsbD 0
      let n := ⌊|valueOf b|⌋
      let rem := |valueOf b| - n
      let v : Int := (if neg then -1 else 1) * (n + if incOf rn neg n rem then 1 else 0)
      floatOnly s t ∧ floatRecord rc s t ∧
      ∃ (i flags : Word) (fr fi : Bool),
        onlyFpr frd (s.params.fpHighWord ++ i) s t ∧
        committed s.fpscr flags (fun k => if k = 13 then fr else if k = 14 then fi else s.fpscr.getMsbD k) t.fpscr ∧
        (if isNaN b then
          i = 0x80000000 ∧ flags = fpVXCVI ||| (if isSNaN b then fpVXSNAN else 0) ∧ fr = false ∧ fi = false
         else if isFinite b = false then
          i = (if neg then 0x80000000 else 0x7FFFFFFF) ∧ flags = fpVXCVI ∧ fr = false ∧ fi = false
         else if 2 ^ 31 - 1 < v then i = 0x7FFFFFFF ∧ flags = fpVXCVI ∧ fr = false ∧ fi = false
         else if v < -(2 ^ 31) then i = 0x80000000 ∧ flags = fpVXCVI ∧ fr = false ∧ fi = false
         else i.toInt = v ∧ flags = (if rem ≠ 0 then fpXX else 0) ∧ fr = incOf rn neg n rem ∧ fi = decide (rem ≠ 0))
    Ends (.fctiw frd z frb rc) s (ends (s.fpscr.extractLsb' 0 2)) ∧ Ends (.fctiwz frd z frb rc) s (ends 1)

/-- R374, R375: the compares order by value, infinities as extremes and a NaN unordered; the four bits go to the CR field and to FPCC;
an SNaN sets VXSNAN; `fcmpo` sets VXVC for a quiet NaN, and beside VXSNAN where VE is 0. -/
def Obligations.FloatCompare : Prop :=
  ∀ (d : CrField) (z9 : BitVec 2) (fra frb : FprNum) (z31 : BitVec 1) (s : State),
    let a := s.fpr fra
    let b := s.fpr frb
    let snan := isSNaN a || isSNaN b
    let qnan := isNaN a || isNaN b
    let ends (vxvc : Bool) (t : State) : Prop :=
      t = { s with cr := t.cr, fpscr := t.fpscr, pc := s.pc + 4, outcome := some .ok } ∧ sameImage s t ∧
      ∃ lt gt eq un, floatOrder a b lt gt eq un ∧ crField d lt gt eq un s t ∧
        committed s.fpscr ((if snan then fpVXSNAN else 0) ||| (if vxvc then fpVXVC else 0)) (fun k =>
          if k = 16 then lt else if k = 17 then gt else if k = 18 then eq else if k = 19 then un
          else s.fpscr.getMsbD k) t.fpscr
    Ends (.fcmpu d z9 fra frb z31) s (ends false) ∧
    Ends (.fcmpo d z9 fra frb z31) s (ends (if snan then !s.fpscr.getMsbD 24 else qnan))

/-- R376 to R380: the moves copy 64 bits with the sign kept, inverted, cleared or set, `mffs` puts P7 over FPSCR; FPSCR is not
written. -/
def Obligations.FloatMoves : Prop :=
  ∀ (frd frb : FprNum) (z11 z16 : BitVec 5) (rc : Bool) (s : State),
    let ends (sign : Bool) (t : State) : Prop := floatOnly s t ∧ t.fpscr = s.fpscr ∧ floatRecord rc s t ∧
      onlyFpr frd (t.fpr frd) s t ∧
      ∀ k, k < 64 → (t.fpr frd).getMsbD k = if k = 0 then sign else (s.fpr frb).getMsbD k
    Ends (.fmr frd z11 frb rc) s (ends ((s.fpr frb).getMsbD 0)) ∧
    Ends (.fneg frd z11 frb rc) s (ends (!(s.fpr frb).getMsbD 0)) ∧
    Ends (.fabs frd z11 frb rc) s (ends false) ∧
    Ends (.fnabs frd z11 frb rc) s (ends true) ∧
    Ends (.mffs frd z11 z16 rc) s (fun t => floatOnly s t ∧ t.fpscr = s.fpscr ∧ floatRecord rc s t ∧
      onlyFpr frd (s.params.fpHighWord ++ s.fpscr) s t)

/-- R381 to R385: what each FPSCR instruction writes, bit by bit; bits 1 and 2 are never written, always derived; only `mtfsb1` of an
exception bit that was 0 sets FX on the side. `mcrfs` of field 0 and `mtfsb0` of bit 0 clear FX, as R381 and R384 say; R37's "it
never clears FX" is read as of the side effect alone (log 26, DEDUCED). -/
def Obligations.FpscrInstructions : Prop :=
  ∀ (d f : CrField) (z2 z14 : BitVec 2) (z1 z1' z31 : BitVec 1) (z5 z16 : BitVec 5) (imm : BitVec 4) (m : BitVec 8)
    (frb : FprNum) (n : CrBit) (rc : Bool) (s : State),
    let ends (bit : Nat → Bool) (t : State) : Prop := floatOnly s t ∧ (∀ x, t.fpr x = s.fpr x) ∧ floatRecord rc s t ∧
      derivedBits t.fpscr ∧ ∀ k, k < 32 → k ≠ 1 → k ≠ 2 → t.fpscr.getMsbD k = bit k
    Ends (.mcrfs d z2 f z14 z16 z31) s (fun t => floatOnly s t ∧ (∀ x, t.fpr x = s.fpr x) ∧
      (∀ k, k < 32 → t.cr.getMsbD k =
        if k / 4 = d.toNat then s.fpscr.getMsbD (4 * f.toNat + k % 4) else s.cr.getMsbD k) ∧
      derivedBits t.fpscr ∧ ∀ k, k < 32 → k ≠ 1 → k ≠ 2 → t.fpscr.getMsbD k =
        (s.fpscr.getMsbD k && !(decide (k / 4 = f.toNat) && (isExceptionBit k || decide (k = 0))))) ∧
    Ends (.mtfsfi d z2 z5 imm z1 rc) s (ends fun k =>
      if k / 4 = d.toNat then imm.getMsbD (k % 4) else s.fpscr.getMsbD k) ∧
    Ends (.mtfsf z1 m z1' frb rc) s (ends fun k =>
      if m.getMsbD (k / 4) then (s.fpr frb).getMsbD (32 + k) else s.fpscr.getMsbD k) ∧
    Ends (.mtfsb0 n z5 z16 rc) s (ends fun k => s.fpscr.getMsbD k && !decide (k = n.toNat)) ∧
    Ends (.mtfsb1 n z5 z16 rc) s (ends fun k =>
      s.fpscr.getMsbD k || decide (k = n.toNat) ||
        (decide (k = 0) && isExceptionBit n.toNat && !s.fpscr.getMsbD n.toNat))

/-- R421, R422: DOUBLE keeps the sign of every binary32 pattern, the value of every finite one and the payload of the others, and
SINGLE(DOUBLE(w)) = w. SINGLE of any binary64 pattern, without rounding, by its three cases: bits 2 to 4 dropped and the fraction cut
off; in binary32's denormal range the significand shifted right with its low bits lost; below it a zero of the same sign. -/
def Obligations.SingleDouble : Prop :=
  (∀ w : Word, toSingle (toDouble w) = w ∧ (toDouble w).getMsbD 0 = w.getMsbD 0 ∧
    ((w.extractLsb' 23 8).toNat ≠ 255 → isFinite (toDouble w) = true ∧ valueOf (toDouble w) = valueOfSingle w) ∧
    ((w.extractLsb' 23 8).toNat = 255 → isFinite (toDouble w) = false ∧
      (toDouble w).extractLsb' 29 23 = w.extractLsb' 0 23 ∧ (toDouble w).extractLsb' 0 29 = 0)) ∧
  ∀ d : DWord,
    let e := (d.extractLsb' 52 11).toNat
    let f := (d.extractLsb' 0 52).toNat
    if 896 < e ∨ d.toNat % 2 ^ 63 = 0 then
      ∀ k, k < 32 → (toSingle d).getMsbD k = d.getMsbD (if k < 2 then k else k + 3)
    else if 874 ≤ e then
      (toSingle d).getMsbD 0 = d.getMsbD 0 ∧ (toSingle d).toNat % 2 ^ 31 = (2 ^ 52 + f) / 2 ^ (897 - e) / 2 ^ 29
    else (toSingle d).getMsbD 0 = d.getMsbD 0 ∧ (toSingle d).toNat % 2 ^ 31 = 0

/-- R351: the enable bits and NI never change a result: with the same rounding mode, an arithmetic instruction delivers the same value
and the same flags. -/
def Obligations.EnablesChangeNoResult : Prop :=
  ∀ (i : Instr) (s t u : State) (f : Word), (∃ r, arithForm i s = some r) →
    (∀ k, k < 24 ∨ 30 ≤ k → f.getMsbD k = s.fpscr.getMsbD k) →
    exec i s = .next t → exec i { s with fpscr := f } = .next u →
    t.fprs = u.fprs ∧ ∀ k, 3 ≤ k → k < 24 → u.fpscr.getMsbD k = t.fpscr.getMsbD k

end
end

