-- ==== Sys2Proof/Laws/Decode.lean ====
section
/-! SUPPORT. The bits of a word that the encoder puts together and the decoder takes apart (30_encoding.md R92), and what a mask
leaves of a field. -/

namespace Sys2Proof

/-- A bit of a field put into a word. -/
theorem getLsbD_put {n : Nat} (lo : Nat) (x : BitVec n) (k : Nat) :
    (put lo x).getLsbD k = (decide (k < 32) && !decide (k < lo) && x.getLsbD (k - lo)) := by
  unfold put
  rw [BitVec.getLsbD_shiftLeft, BitVec.getLsbD_setWidth]
  by_cases h : k < 32
  · have : k - lo < 32 := by omega
    simp [h, this]
  · simp [h]

/-- A bit of a field taken from a word. -/
theorem getLsbD_take (lo n : Nat) (w : Word) (k : Nat) :
    (take lo n w).getLsbD k = (decide (k < n) && w.getLsbD (lo + k)) := by
  unfold take
  rw [BitVec.getLsbD_extractLsb']

/-- Taking a field of one of two combined words. -/
theorem take_or (lo n : Nat) (v w : Word) : take lo n (v ||| w) = take lo n v ||| take lo n w := by
  apply BitVec.eq_of_getLsbD_eq
  intro k hk
  rw [BitVec.getLsbD_or]
  simp only [getLsbD_take, BitVec.getLsbD_or, hk, decide_true, Bool.true_and]

/-- A field taken where it was put. -/
theorem take_put_same {n : Nat} (lo : Nat) (x : BitVec n) (h : lo + n ≤ 32) : take lo n (put lo x) = x := by
  apply BitVec.eq_of_getLsbD_eq
  intro k hk
  have h1 : lo + k < 32 := by omega
  have h2 : ¬ lo + k < lo := by omega
  have h3 : lo + k - lo = k := by omega
  simp only [getLsbD_take, getLsbD_put, hk, h1, h2, h3, decide_true, decide_false, Bool.not_false, Bool.true_and]

/-- A field taken where another was put is zero. -/
theorem take_put_apart {n : Nat} (lo lo' n' : Nat) (x : BitVec n) (h : lo + n ≤ lo' ∨ lo' + n' ≤ lo) :
    take lo' n' (put lo x) = 0 := by
  apply BitVec.eq_of_getLsbD_eq
  intro k hk
  rw [getLsbD_take, getLsbD_put]
  rcases h with h | h
  · have : x.getLsbD (lo' + k - lo) = false := BitVec.getLsbD_of_ge _ _ (by omega)
    simp [this]
  · have : lo' + k < lo := by omega
    simp [this]

/-- Swapping the halves of an SPR number twice changes nothing (R95). -/
theorem swapHalves_swapHalves (f : BitVec 10) : swapHalves (swapHalves f) = f := by
  apply BitVec.eq_of_getLsbD_eq
  intro k hk
  unfold swapHalves
  rw [BitVec.getLsbD_append]
  simp only [BitVec.getLsbD_extractLsb', BitVec.getLsbD_append]
  interval_cases k <;> rfl

/-- A mask on two combined words. -/
theorem or_and_mask (v w m : Word) : (v ||| w) &&& m = (v &&& m) ||| (w &&& m) := by
  apply BitVec.eq_of_getLsbD_eq
  intro k hk
  simp only [BitVec.getLsbD_and, BitVec.getLsbD_or]
  cases v.getLsbD k <;> cases w.getLsbD k <;> simp

/-- A mask that covers none of a field's places leaves nothing of the field. -/
theorem put_and_mask {n : Nat} (lo : Nat) (x : BitVec n) (m : Word) (h : put lo (BitVec.allOnes n) &&& m = 0) :
    put lo x &&& m = 0 := by
  apply BitVec.eq_of_getLsbD_eq
  intro k hk
  have hb := congrArg (fun v => BitVec.getLsbD v k) h
  simp only [BitVec.getLsbD_and, getLsbD_put, BitVec.getLsbD_allOnes] at hb
  simp only [BitVec.getLsbD_and, getLsbD_put]
  by_cases hn : k - lo < n
  · revert hb
    simp only [hn, decide_true, Bool.and_true]
    cases decide (k < 32) <;> cases decide (k < lo) <;> cases m.getLsbD k <;> simp
  · rw [BitVec.getLsbD_of_ge x _ (by omega)]
    simp

/-- The same of a flag. -/
theorem putBit_and_mask (lo : Nat) (b : Bool) (m : Word) (h : put lo (BitVec.allOnes 1) &&& m = 0) :
    putBit lo b &&& m = 0 :=
  put_and_mask lo _ m h

end Sys2Proof
end

