-- ==== Sys2Proof/Laws/Memory.lean ====
section
/-! SUPPORT. The laws of the sparse maps, of the image and of the port: read after write, every other place left alone, the
canonical form kept. -/

namespace Sys2Proof.Machine

/-! ## Sparse maps -/

section Sparse

variable {β : Type} (d : β)

@[simp] theorem sparseGet_nil (a : Nat) : sparseGet d [] a = d := rfl

theorem sparseGet_erase_same (l : List (Nat × β)) (a : Nat) : sparseGet d (sparseErase l a) a = d := by
  induction l with
  | nil => rfl
  | cons c l ih =>
    obtain ⟨k, v⟩ := c
    by_cases h : k = a <;> simp [sparseErase, sparseGet, h, ih]

theorem sparseGet_erase_other (l : List (Nat × β)) {a x : Nat} (hx : x ≠ a) :
    sparseGet d (sparseErase l a) x = sparseGet d l x := by
  induction l with
  | nil => rfl
  | cons c l ih =>
    obtain ⟨k, v⟩ := c
    by_cases h : k = a
    · subst h
      simp [sparseErase, sparseGet, ih, Ne.symm hx]
    · simp [sparseErase, sparseGet, h, ih]

theorem sparseErase_no_key (l : List (Nat × β)) (a : Nat) : ∀ c ∈ sparseErase l a, c.1 ≠ a := by
  induction l with
  | nil => simp [sparseErase]
  | cons c l ih =>
    obtain ⟨k, v⟩ := c
    by_cases h : k = a
    · simpa [sparseErase, h] using ih
    · simp only [sparseErase, h, if_false, List.mem_cons]
      rintro c (rfl | hc)
      · exact h
      · exact ih c hc

theorem sparseErase_subset (l : List (Nat × β)) (a : Nat) : ∀ c ∈ sparseErase l a, c ∈ l := by
  induction l with
  | nil => simp [sparseErase]
  | cons c l ih =>
    obtain ⟨k, v⟩ := c
    intro c hc
    by_cases h : k = a
    · exact List.mem_cons_of_mem _ (ih c (by simpa [sparseErase, h] using hc))
    · simp only [sparseErase, h, if_false, List.mem_cons] at hc
      rcases hc with rfl | hc
      · exact List.mem_cons_self ..
      · exact List.mem_cons_of_mem _ (ih c hc)

theorem sparseGet_insert_same (a : Nat) (b : β) (l : List (Nat × β)) (hl : ∀ c ∈ l, c.1 ≠ a) :
    sparseGet d (sparseInsert a b l) a = b := by
  induction l with
  | nil => simp [sparseInsert, sparseGet]
  | cons c l ih =>
    obtain ⟨k, v⟩ := c
    have hk : k ≠ a := hl (k, v) (List.mem_cons_self ..)
    have ih' := ih fun c hc => hl c (List.mem_cons_of_mem _ hc)
    by_cases h : a < k <;> simp [sparseInsert, sparseGet, h, hk, ih']

theorem sparseGet_insert_other (a : Nat) (b : β) (l : List (Nat × β)) {x : Nat} (hx : x ≠ a) :
    sparseGet d (sparseInsert a b l) x = sparseGet d l x := by
  induction l with
  | nil => simp [sparseInsert, sparseGet, Ne.symm hx]
  | cons c l ih =>
    obtain ⟨k, v⟩ := c
    by_cases h : a < k <;> simp [sparseInsert, sparseGet, h, ih, Ne.symm hx]

theorem mem_sparseInsert (a : Nat) (b : β) (l : List (Nat × β)) (c : Nat × β) :
    c ∈ sparseInsert a b l ↔ c = (a, b) ∨ c ∈ l := by
  induction l with
  | nil => simp [sparseInsert]
  | cons e l ih =>
    obtain ⟨k, v⟩ := e
    by_cases h : a < k
    · simp [sparseInsert, h]
    · simp only [sparseInsert, h, if_false, List.mem_cons, ih]
      tauto

theorem sparseErase_sorted (l : List (Nat × β)) (a : Nat) (h : l.Pairwise (fun x y => x.1 < y.1)) :
    (sparseErase l a).Pairwise (fun x y => x.1 < y.1) := by
  induction l with
  | nil => exact List.Pairwise.nil
  | cons c l ih =>
    obtain ⟨k, v⟩ := c
    rw [List.pairwise_cons] at h
    by_cases hk : k = a
    · simpa [sparseErase, hk] using ih h.2
    · simp only [sparseErase, hk, if_false, List.pairwise_cons]
      exact ⟨fun c hc => h.1 c (sparseErase_subset l a c hc), ih h.2⟩

theorem sparseInsert_sorted (a : Nat) (b : β) (l : List (Nat × β)) (h : l.Pairwise (fun x y => x.1 < y.1))
    (ha : ∀ c ∈ l, c.1 ≠ a) : (sparseInsert a b l).Pairwise (fun x y => x.1 < y.1) := by
  induction l with
  | nil => simp [sparseInsert]
  | cons c l ih =>
    obtain ⟨k, v⟩ := c
    have h' := List.pairwise_cons.mp h
    by_cases hk : a < k
    · simp only [sparseInsert, hk, if_true, List.pairwise_cons]
      refine ⟨?_, h'⟩
      rintro e (_ | ⟨_, he⟩)
      · exact hk
      · exact lt_trans hk (h'.1 e he)
    · simp only [sparseInsert, hk, if_false, List.pairwise_cons]
      refine ⟨fun e he => ?_, ih h'.2 fun e he => ha e (List.mem_cons_of_mem _ he)⟩
      rcases (mem_sparseInsert a b l e).mp he with rfl | he
      · have := ha (k, v) (List.mem_cons_self ..)
        simp only at this ⊢
        omega
      · exact h'.1 e he

variable [DecidableEq β]

/-- Read after write: the place written. -/
theorem sparseGet_set_same (l : List (Nat × β)) (a : Nat) (b : β) : sparseGet d (sparseSet d l a b) a = b := by
  unfold sparseSet
  split
  · next h => rw [sparseGet_erase_same, h]
  · exact sparseGet_insert_same d a b _ (sparseErase_no_key l a)

/-- Read after write: every other place. -/
theorem sparseGet_set_other (l : List (Nat × β)) {a x : Nat} (b : β) (hx : x ≠ a) :
    sparseGet d (sparseSet d l a b) x = sparseGet d l x := by
  unfold sparseSet
  split
  · exact sparseGet_erase_other d l hx
  · rw [sparseGet_insert_other d a b _ hx, sparseGet_erase_other d l hx]

theorem sparseGet_set (l : List (Nat × β)) (a x : Nat) (b : β) :
    sparseGet d (sparseSet d l a b) x = if x = a then b else sparseGet d l x := by
  split
  · next h => rw [h, sparseGet_set_same]
  · next h => exact sparseGet_set_other d l b h

/-- A write keeps the canonical form. -/
theorem sparseWf_set {bound : Nat} {l : List (Nat × β)} (h : sparseWf d bound l) {a : Nat} (ha : a < bound) (b : β) :
    sparseWf d bound (sparseSet d l a b) := by
  unfold sparseSet
  split
  · exact ⟨sparseErase_sorted l a h.1, fun c hc => h.2 c (sparseErase_subset l a c hc)⟩
  · next hb =>
    refine ⟨sparseInsert_sorted a b _ (sparseErase_sorted l a h.1) (sparseErase_no_key l a), fun c hc => ?_⟩
    rcases (mem_sparseInsert a b _ c).mp hc with rfl | hc
    · exact ⟨ha, hb⟩
    · exact h.2 c (sparseErase_subset l a c hc)

theorem mem_sparseSet {l : List (Nat × β)} {a : Nat} {b : β} {c : Nat × β} (hc : c ∈ sparseSet d l a b) :
    c.1 = a ∨ c ∈ l := by
  unfold sparseSet at hc
  split at hc
  · exact .inr (sparseErase_subset l a c hc)
  · rcases (mem_sparseInsert a b _ c).mp hc with rfl | hc
    · exact .inl rfl
    · exact .inr (sparseErase_subset l a c hc)

end Sparse

/-! ## The image -/

theorem readByte_writeByte (m : Memory) (a x : Nat) (b : Byte) :
    readByte (writeByte m a b) x = if x = a then b else readByte m x :=
  sparseGet_set _ m a x b

theorem writeByte_wf {m : Memory} (h : Memory.wf m) {a : Nat} (ha : a < 4294967296) (b : Byte) :
    Memory.wf (writeByte m a b) :=
  sparseWf_set _ h ha b

/-- A byte outside the written ones reads as before. -/
theorem readByte_writeBytes_outside (m : Memory) (a n : Nat) (v : DWord) {x : Nat} (hx : x < a ∨ a + n ≤ x) :
    readByte (writeBytes m a n v) x = readByte m x := by
  induction n generalizing m v with
  | zero => rfl
  | succ n ih =>
    have hne : x ≠ a + n := by omega
    rw [writeBytes, ih _ _ (by omega), readByte_writeByte, if_neg hne]

/-- A written byte: the byte at `a + k` is byte `n - 1 - k` of the value, counted from its least significant. -/
theorem readByte_writeBytes_inside (m : Memory) (a n : Nat) (v : DWord) {k : Nat} (hk : k < n) :
    readByte (writeBytes m a n v) (a + k) = (v >>> (8 * (n - 1 - k))).setWidth 8 := by
  induction n generalizing m v with
  | zero => omega
  | succ n ih =>
    rw [writeBytes]
    by_cases h : k = n
    · subst h
      rw [readByte_writeBytes_outside _ _ _ _ (by omega), readByte_writeByte, if_pos rfl]
      simp
    · have hk' : k < n := by omega
      rw [ih _ _ hk']
      rw [← BitVec.shiftRight_add]
      congr 2
      omega

/-- Writing bytes keeps the canonical form. -/
theorem writeBytes_wf {m : Memory} (h : Memory.wf m) {a n : Nat} (ha : a + n ≤ 4294967296) (v : DWord) :
    Memory.wf (writeBytes m a n v) := by
  induction n generalizing m v with
  | zero => exact h
  | succ n ih => exact ih (writeByte_wf h (by omega) _) (by omega) _

/-- Two images that read alike give the same values. -/
theorem readBytes_congr {m m' : Memory} {a n : Nat} (h : ∀ k < n, readByte m' (a + k) = readByte m (a + k)) :
    readBytes m' a n = readBytes m a n := by
  induction n with
  | zero => rfl
  | succ n ih => rw [readBytes, readBytes, h n (by omega), ih fun k hk => h k (by omega)]

/-- A big-endian halfword is its two bytes joined. -/
theorem readBytes_two (m : Memory) (a : Nat) :
    (readBytes m a 2).setWidth 16 = readByte m a ++ readByte m (a + 1) := by
  apply BitVec.eq_of_getLsbD_eq
  intro i hi
  simp only [readBytes, BitVec.getLsbD_append, BitVec.getLsbD_setWidth, BitVec.getLsbD_or, BitVec.getLsbD_shiftLeft]
  interval_cases i <;> simp

/-- A big-endian word is its four bytes joined. -/
theorem readBytes_four (m : Memory) (a : Nat) :
    (readBytes m a 4).setWidth 32 = readByte m a ++ readByte m (a + 1) ++ readByte m (a + 2) ++ readByte m (a + 3) := by
  apply BitVec.eq_of_getLsbD_eq
  intro i hi
  simp only [readBytes, BitVec.getLsbD_append, BitVec.getLsbD_setWidth, BitVec.getLsbD_or, BitVec.getLsbD_shiftLeft]
  interval_cases i <;> simp

/-! ## The port -/

theorem Width.bytes_pos (w : Width) : 0 < w.bytes := by cases w <;> decide

/-- An aligned access does not run over the top of the address space. -/
theorem aligned_fits {a : Word} {w : Width} (h : aligned a w = true) : a.toNat + w.bytes ≤ 4294967296 := by
  have ha := a.isLt
  have hm : a.toNat % w.bytes = 0 := by simpa [aligned] using h
  cases w <;> simp only [Width.bytes] at hm ⊢ <;> omega

/-! ## What others do before a call (R74, R592 (c)) -/

/-- Coming to a call changes at most the image, the port and the rest of the traffic. -/
theorem atCall_fields (s : State) : s.atCall = { s with mem := s.atCall.mem, port := s.atCall.port, traffic := s.atCall.traffic } := by
  unfold State.atCall
  split <;> rfl

/-- Changing at most the image, the port and the traffic, one time after another. -/
theorem environment_trans {s t u : State} (h1 : t = { s with mem := t.mem, port := t.port, traffic := t.traffic })
    (h2 : u = { t with mem := u.mem, port := u.port, traffic := u.traffic }) :
    u = { s with mem := u.mem, port := u.port, traffic := u.traffic } :=
  h2.trans (congrArg (fun v : State => { v with mem := u.mem, port := u.port, traffic := u.traffic }) h1)

/-- What a call meets does not depend on a register: it commutes with every change elsewhere. -/
theorem atCall_congr {s t : State} (hm : t.mem = s.mem) (hp : t.port = s.port) (ht : t.traffic = s.traffic) :
    t.atCall = { t with mem := s.atCall.mem, port := s.atCall.port, traffic := s.atCall.traffic } := by
  unfold State.atCall
  rw [ht]
  cases h : s.traffic with
  | nil => simp only [← hm, ← hp, ← ht]
  | cons e rest => simp only [hm, hp]

/-- Where no traffic is left, nobody comes between. -/
theorem atCall_of_nil {s : State} (h : s.traffic = []) : s.atCall = s := by
  unfold State.atCall
  rw [h]

/-- A sequence of byte writes keeps the canonical form. -/
theorem foldl_writeByte_wf (l : List (Word × Byte)) {m : Memory} (h : Memory.wf m) :
    Memory.wf (l.foldl (fun m c => writeByte m c.1.toNat c.2) m) := by
  induction l generalizing m with
  | nil => exact h
  | cons c l ih => exact ih (writeByte_wf h c.1.isLt c.2)

/-- What others write keeps the canonical form. -/
theorem atCall_wf {s : State} (h : Memory.wf s.mem) : Memory.wf s.atCall.mem := by
  unfold State.atCall
  split
  · exact h
  · next e rest _ => exact foldl_writeByte_wf e.writes h

@[simp] theorem afterCalls_zero (s : State) : s.afterCalls 0 = s := rfl

/-- The calls after the first one are the calls of the state the first one met. -/
theorem afterCalls_succ (s : State) (n : Nat) : s.afterCalls (n + 1) = s.atCall.afterCalls n := by
  induction n with
  | zero => rfl
  | succ n ih => rw [State.afterCalls, ih, State.afterCalls]

/-- Coming to any number of calls changes at most the image, the port and the rest of the traffic. -/
theorem afterCalls_fields (s : State) (n : Nat) :
    s.afterCalls n =
      { s with mem := (s.afterCalls n).mem, port := (s.afterCalls n).port, traffic := (s.afterCalls n).traffic } := by
  induction n with
  | zero => rfl
  | succ n ih => exact environment_trans ih (atCall_fields _)

/-- What others write before any number of calls keeps the canonical form. -/
theorem afterCalls_wf {s : State} (h : Memory.wf s.mem) (n : Nat) : Memory.wf (s.afterCalls n).mem := by
  induction n with
  | zero => exact h
  | succ n ih => exact atCall_wf ih

/-! ## One call -/

/-- A read that nothing stops. -/
theorem memRead_ok {s : State} {a : Word} {w : Width} (h1 : aligned a w = true)
    (h2 : s.atCall.port.answers .read a.toNat w.bytes = true) :
    s.memRead a w = (s.atCall, .ok (readBytes s.atCall.mem a.toNat w.bytes)) := by
  simp [State.memRead, h1, h2]

/-- A write that nothing stops. -/
theorem memWrite_ok {s : State} {a : Word} {w : Width} (v : DWord) (h1 : aligned a w = true)
    (h2 : s.atCall.port.answers .write a.toNat w.bytes = true) : s.memWrite a w v = (s.atCall.putBytes a w v, none) := by
  simp [State.memWrite, h1, h2]

/-- Everything a read can answer. -/
theorem memRead_cases (s : State) (a : Word) (w : Width) :
    (s.memRead a w = (s.atCall, .ok (readBytes s.atCall.mem a.toNat w.bytes)) ∧ aligned a w = true ∧
        s.atCall.port.answers .read a.toNat w.bytes = true) ∨
      (s.memRead a w = (s, .error (.alignment .data a w)) ∧ aligned a w = false) ∨
      (s.memRead a w = (s.atCall, .error (.memoryFailure .read a w)) ∧ aligned a w = true ∧
        s.atCall.port.answers .read a.toNat w.bytes = false) := by
  unfold State.memRead
  cases h1 : aligned a w <;> cases h2 : s.atCall.port.answers .read a.toNat w.bytes <;> simp

/-- Everything a write can answer. -/
theorem memWrite_cases (s : State) (a : Word) (w : Width) (v : DWord) :
    (s.memWrite a w v = (s.atCall.putBytes a w v, none) ∧ aligned a w = true ∧
        s.atCall.port.answers .write a.toNat w.bytes = true) ∨
      (s.memWrite a w v = (s, some (.alignment .data a w)) ∧ aligned a w = false) ∨
      (s.memWrite a w v = (s.atCall, some (.memoryFailure .write a w)) ∧ aligned a w = true ∧
        s.atCall.port.answers .write a.toNat w.bytes = false) := by
  unfold State.memWrite
  cases h1 : aligned a w <;> cases h2 : s.atCall.port.answers .write a.toNat w.bytes <;> simp

/-- Whatever a write does, it changes at most the image, the port and the rest of the traffic. -/
theorem memWrite_fields (s : State) (a : Word) (w : Width) (v : DWord) :
    (s.memWrite a w v).1 =
      { s with
        mem := (s.memWrite a w v).1.mem
        port := (s.memWrite a w v).1.port
        traffic := (s.memWrite a w v).1.traffic } := by
  have h0 := atCall_fields s
  rcases memWrite_cases s a w v with ⟨h, -⟩ | ⟨h, -⟩ | ⟨h, -⟩ <;> rw [h]
  · exact congrArg (fun t => State.putBytes t a w v) h0
  · exact h0

/-- A write keeps the canonical form. -/
theorem memWrite_wf {s : State} (h : Memory.wf s.mem) (a : Word) (w : Width) (v : DWord) :
    Memory.wf (s.memWrite a w v).1.mem := by
  rcases memWrite_cases s a w v with ⟨h1, h2, -⟩ | ⟨h1, -⟩ | ⟨h1, -⟩ <;> rw [h1]
  · exact writeBytes_wf (atCall_wf h) (aligned_fits h2) v
  · exact h
  · exact atCall_wf h

/-- The port a call meets depends on the port and the traffic alone. -/
theorem atCall_port_congr {s t : State} (hp : t.port = s.port) (ht : t.traffic = s.traffic) :
    t.atCall.port = s.atCall.port ∧ t.atCall.traffic = s.atCall.traffic := by
  unfold State.atCall
  rw [ht]
  cases h : s.traffic <;> simp [hp, ht, h]

/-- The port that any number of calls meet depends on the port and the traffic alone. -/
theorem afterCalls_port_congr {s t : State} (hp : t.port = s.port) (ht : t.traffic = s.traffic) (n : Nat) :
    (t.afterCalls n).port = (s.afterCalls n).port ∧ (t.afterCalls n).traffic = (s.afterCalls n).traffic := by
  induction n with
  | zero => exact ⟨hp, ht⟩
  | succ n ih => exact atCall_port_congr ih.1 ih.2

/-! ## Sequences of calls -/

/-- Whatever a sequence of writes does, it changes at most the image, the port and the rest of the traffic. -/
theorem writeSeq_fields (w : Width) (l : List (Word × DWord)) (s : State) :
    (State.writeSeq w l s).1 =
      { s with
        mem := (State.writeSeq w l s).1.mem
        port := (State.writeSeq w l s).1.port
        traffic := (State.writeSeq w l s).1.traffic } := by
  induction l generalizing s with
  | nil => rfl
  | cons c l ih =>
    obtain ⟨a, v⟩ := c
    have h0 := memWrite_fields s a w v
    rw [State.writeSeq]
    revert h0
    rcases s.memWrite a w v with ⟨t, _ | o⟩ <;> intro h0
    · exact environment_trans h0 (ih t)
    · exact h0

/-- A sequence of writes keeps the canonical form. -/
theorem writeSeq_wf (w : Width) (l : List (Word × DWord)) {s : State} (h : Memory.wf s.mem) :
    Memory.wf (State.writeSeq w l s).1.mem := by
  induction l generalizing s with
  | nil => exact h
  | cons c l ih =>
    obtain ⟨a, v⟩ := c
    have h0 := memWrite_wf h a w v
    rw [State.writeSeq]
    revert h0
    rcases s.memWrite a w v with ⟨t, _ | o⟩ <;> intro h0
    · exact ih h0
    · exact h0

/-- A failure of a sequence of writes is an alignment violation or a memory failure. -/
theorem writeSeq_failure (w : Width) (l : List (Word × DWord)) {s : State} {o : StepOutcome}
    (h : (State.writeSeq w l s).2 = some o) :
    (∃ a, o = .alignment .data a w) ∨ ∃ a, o = .memoryFailure .write a w := by
  induction l generalizing s with
  | nil => cases h
  | cons c l ih =>
    obtain ⟨a, v⟩ := c
    rw [State.writeSeq] at h
    rcases memWrite_cases s a w v with ⟨hw, -⟩ | ⟨hw, -⟩ | ⟨hw, -⟩ <;> simp only [hw] at h
    · exact ih h
    · exact .inl ⟨a, (Option.some.inj h).symm⟩
    · exact .inr ⟨a, (Option.some.inj h).symm⟩

/-- Writes that nothing stops all happen, each over what others have done before it. -/
theorem writeSeq_ok (w : Width) (l : List (Word × DWord)) (s : State)
    (h : ∀ (k : Nat) (hk : k < l.length), aligned l[k].1 w = true ∧
      (s.afterCalls (k + 1)).port.answers .write l[k].1.toNat w.bytes = true) :
    State.writeSeq w l s = (l.foldl (fun t c => t.atCall.putBytes c.1 w c.2) s, none) := by
  induction l generalizing s with
  | nil => rfl
  | cons c l ih =>
    obtain ⟨a, v⟩ := c
    obtain ⟨h1, h2⟩ := h 0 (Nat.zero_lt_succ _)
    have h0 : s.memWrite a w v = (s.atCall.putBytes a w v, none) := memWrite_ok v h1 h2
    simp only [State.writeSeq, h0]
    rw [ih]
    · rfl
    · intro k hk
      have h3 := h (k + 1) (Nat.succ_lt_succ hk)
      rw [afterCalls_succ] at h3
      refine ⟨h3.1, ?_⟩
      rw [(afterCalls_port_congr (s := s.atCall) (t := s.atCall.putBytes a w v) rfl rfl (k + 1)).1]
      exact h3.2

/-- A sequence of reads has met some number of calls, at most one for each address. -/
theorem readSeq_fields (w : Width) (l : List Word) (s : State) :
    ∃ n, n ≤ l.length ∧ (State.readSeq w l s).1 = s.afterCalls n := by
  induction l generalizing s with
  | nil => exact ⟨0, le_rfl, rfl⟩
  | cons a l ih =>
    rw [State.readSeq]
    rcases memRead_cases s a w with ⟨h, -⟩ | ⟨h, -⟩ | ⟨h, -⟩ <;> simp only [h]
    · obtain ⟨n, hn, hs⟩ := ih s.atCall
      refine ⟨n + 1, Nat.succ_le_succ hn, ?_⟩
      rw [afterCalls_succ, ← hs]
      rcases State.readSeq w l s.atCall with ⟨u, _ | vs⟩ <;> rfl
    · exact ⟨0, Nat.zero_le _, rfl⟩
    · exact ⟨1, by simp, rfl⟩

/-- A failure of a sequence of reads is an alignment violation or a memory failure. -/
theorem readSeq_failure (w : Width) (l : List Word) {s : State} {o : StepOutcome} (h : (State.readSeq w l s).2 = .error o) :
    (∃ a, o = .alignment .data a w) ∨ ∃ a, o = .memoryFailure .read a w := by
  induction l generalizing s with
  | nil => cases h
  | cons a l ih =>
    rw [State.readSeq] at h
    rcases memRead_cases s a w with ⟨hr, -⟩ | ⟨hr, -⟩ | ⟨hr, -⟩ <;> simp only [hr] at h
    · have ih' := ih (s := s.atCall)
      revert h ih'
      rcases State.readSeq w l s.atCall with ⟨u, o' | vs⟩ <;> intro h ih' <;> cases h
      exact ih' rfl
    · cases h; exact .inl ⟨a, rfl⟩
    · cases h; exact .inr ⟨a, rfl⟩

/-- Reads that nothing stops give the values in order, each from the image its call meets. -/
theorem readSeq_ok (w : Width) (l : List Word) (s : State)
    (h : ∀ (k : Nat) (hk : k < l.length), aligned l[k] w = true ∧
      (s.afterCalls (k + 1)).port.answers .read l[k].toNat w.bytes = true) :
    State.readSeq w l s =
      (s.afterCalls l.length, .ok (l.mapIdx fun k a => readBytes (s.afterCalls (k + 1)).mem a.toNat w.bytes)) := by
  induction l generalizing s with
  | nil => rfl
  | cons a l ih =>
    obtain ⟨h1, h2⟩ := h 0 (Nat.zero_lt_succ _)
    have h' := ih s.atCall fun k hk => by
      have h3 := h (k + 1) (Nat.succ_lt_succ hk)
      rw [afterCalls_succ] at h3
      exact h3
    have h0 : s.memRead a w = (s.atCall, .ok (readBytes s.atCall.mem a.toNat w.bytes)) := memRead_ok h1 h2
    simp only [State.readSeq, h0, h', List.length_cons, List.mapIdx_cons, afterCalls_succ, afterCalls_zero]

end Sys2Proof.Machine
end

