-- ==== Sys2Proof/Laws/State.lean ====
section
/-! SUPPORT. What each update of State does to each field, one lemma per field, so that no proof unfolds an update; and the reads
of registers, fields and bits after writes. -/

namespace Sys2Proof.Machine

variable (s : State)

/-! ## setGpr -/

@[simp] theorem setGpr_gprs (r : GprNum) (v : Word) : (s.setGpr r v).gprs = s.gprs.set r.toNat v r.isLt := rfl
@[simp] theorem setGpr_fprs (r : GprNum) (v : Word) : (s.setGpr r v).fprs = s.fprs := rfl
@[simp] theorem setGpr_cr (r : GprNum) (v : Word) : (s.setGpr r v).cr = s.cr := rfl
@[simp] theorem setGpr_lr (r : GprNum) (v : Word) : (s.setGpr r v).lr = s.lr := rfl
@[simp] theorem setGpr_ctr (r : GprNum) (v : Word) : (s.setGpr r v).ctr = s.ctr := rfl
@[simp] theorem setGpr_pc (r : GprNum) (v : Word) : (s.setGpr r v).pc = s.pc := rfl
@[simp] theorem setGpr_xer (r : GprNum) (v : Word) : (s.setGpr r v).xer = s.xer := rfl
@[simp] theorem setGpr_msr (r : GprNum) (v : Word) : (s.setGpr r v).msr = s.msr := rfl
@[simp] theorem setGpr_srr0 (r : GprNum) (v : Word) : (s.setGpr r v).srr0 = s.srr0 := rfl
@[simp] theorem setGpr_srr1 (r : GprNum) (v : Word) : (s.setGpr r v).srr1 = s.srr1 := rfl
@[simp] theorem setGpr_sprs (r : GprNum) (v : Word) : (s.setGpr r v).sprs = s.sprs := rfl
@[simp] theorem setGpr_tb (r : GprNum) (v : Word) : (s.setGpr r v).tb = s.tb := rfl
@[simp] theorem setGpr_fpscr (r : GprNum) (v : Word) : (s.setGpr r v).fpscr = s.fpscr := rfl
@[simp] theorem setGpr_lastInvalid (r : GprNum) (v : Word) : (s.setGpr r v).lastInvalid = s.lastInvalid := rfl
@[simp] theorem setGpr_running (r : GprNum) (v : Word) : (s.setGpr r v).running = s.running := rfl
@[simp] theorem setGpr_mem (r : GprNum) (v : Word) : (s.setGpr r v).mem = s.mem := rfl
@[simp] theorem setGpr_port (r : GprNum) (v : Word) : (s.setGpr r v).port = s.port := rfl
@[simp] theorem setGpr_traffic (r : GprNum) (v : Word) : (s.setGpr r v).traffic = s.traffic := rfl
@[simp] theorem setGpr_params (r : GprNum) (v : Word) : (s.setGpr r v).params = s.params := rfl
@[simp] theorem setGpr_tickCount (r : GprNum) (v : Word) : (s.setGpr r v).tickCount = s.tickCount := rfl
@[simp] theorem setGpr_outcome (r : GprNum) (v : Word) : (s.setGpr r v).outcome = s.outcome := rfl
@[simp] theorem setGpr_events (r : GprNum) (v : Word) : (s.setGpr r v).events = s.events := rfl

/-! ## setFpr -/

@[simp] theorem setFpr_gprs (r : FprNum) (v : DWord) : (s.setFpr r v).gprs = s.gprs := rfl
@[simp] theorem setFpr_fprs (r : FprNum) (v : DWord) : (s.setFpr r v).fprs = s.fprs.set r.toNat v r.isLt := rfl
@[simp] theorem setFpr_cr (r : FprNum) (v : DWord) : (s.setFpr r v).cr = s.cr := rfl
@[simp] theorem setFpr_lr (r : FprNum) (v : DWord) : (s.setFpr r v).lr = s.lr := rfl
@[simp] theorem setFpr_ctr (r : FprNum) (v : DWord) : (s.setFpr r v).ctr = s.ctr := rfl
@[simp] theorem setFpr_pc (r : FprNum) (v : DWord) : (s.setFpr r v).pc = s.pc := rfl
@[simp] theorem setFpr_xer (r : FprNum) (v : DWord) : (s.setFpr r v).xer = s.xer := rfl
@[simp] theorem setFpr_msr (r : FprNum) (v : DWord) : (s.setFpr r v).msr = s.msr := rfl
@[simp] theorem setFpr_srr0 (r : FprNum) (v : DWord) : (s.setFpr r v).srr0 = s.srr0 := rfl
@[simp] theorem setFpr_srr1 (r : FprNum) (v : DWord) : (s.setFpr r v).srr1 = s.srr1 := rfl
@[simp] theorem setFpr_sprs (r : FprNum) (v : DWord) : (s.setFpr r v).sprs = s.sprs := rfl
@[simp] theorem setFpr_tb (r : FprNum) (v : DWord) : (s.setFpr r v).tb = s.tb := rfl
@[simp] theorem setFpr_fpscr (r : FprNum) (v : DWord) : (s.setFpr r v).fpscr = s.fpscr := rfl
@[simp] theorem setFpr_lastInvalid (r : FprNum) (v : DWord) : (s.setFpr r v).lastInvalid = s.lastInvalid := rfl
@[simp] theorem setFpr_running (r : FprNum) (v : DWord) : (s.setFpr r v).running = s.running := rfl
@[simp] theorem setFpr_mem (r : FprNum) (v : DWord) : (s.setFpr r v).mem = s.mem := rfl
@[simp] theorem setFpr_port (r : FprNum) (v : DWord) : (s.setFpr r v).port = s.port := rfl
@[simp] theorem setFpr_traffic (r : FprNum) (v : DWord) : (s.setFpr r v).traffic = s.traffic := rfl
@[simp] theorem setFpr_params (r : FprNum) (v : DWord) : (s.setFpr r v).params = s.params := rfl
@[simp] theorem setFpr_tickCount (r : FprNum) (v : DWord) : (s.setFpr r v).tickCount = s.tickCount := rfl
@[simp] theorem setFpr_outcome (r : FprNum) (v : DWord) : (s.setFpr r v).outcome = s.outcome := rfl
@[simp] theorem setFpr_events (r : FprNum) (v : DWord) : (s.setFpr r v).events = s.events := rfl

/-! ## setCrField -/

@[simp] theorem setCrField_gprs (n : CrField) (v : BitVec 4) : (s.setCrField n v).gprs = s.gprs := rfl
@[simp] theorem setCrField_fprs (n : CrField) (v : BitVec 4) : (s.setCrField n v).fprs = s.fprs := rfl
@[simp] theorem setCrField_cr (n : CrField) (v : BitVec 4) : (s.setCrField n v).cr = putField s.cr n v := rfl
@[simp] theorem setCrField_lr (n : CrField) (v : BitVec 4) : (s.setCrField n v).lr = s.lr := rfl
@[simp] theorem setCrField_ctr (n : CrField) (v : BitVec 4) : (s.setCrField n v).ctr = s.ctr := rfl
@[simp] theorem setCrField_pc (n : CrField) (v : BitVec 4) : (s.setCrField n v).pc = s.pc := rfl
@[simp] theorem setCrField_xer (n : CrField) (v : BitVec 4) : (s.setCrField n v).xer = s.xer := rfl
@[simp] theorem setCrField_msr (n : CrField) (v : BitVec 4) : (s.setCrField n v).msr = s.msr := rfl
@[simp] theorem setCrField_srr0 (n : CrField) (v : BitVec 4) : (s.setCrField n v).srr0 = s.srr0 := rfl
@[simp] theorem setCrField_srr1 (n : CrField) (v : BitVec 4) : (s.setCrField n v).srr1 = s.srr1 := rfl
@[simp] theorem setCrField_sprs (n : CrField) (v : BitVec 4) : (s.setCrField n v).sprs = s.sprs := rfl
@[simp] theorem setCrField_tb (n : CrField) (v : BitVec 4) : (s.setCrField n v).tb = s.tb := rfl
@[simp] theorem setCrField_fpscr (n : CrField) (v : BitVec 4) : (s.setCrField n v).fpscr = s.fpscr := rfl
@[simp] theorem setCrField_lastInvalid (n : CrField) (v : BitVec 4) : (s.setCrField n v).lastInvalid = s.lastInvalid := rfl
@[simp] theorem setCrField_running (n : CrField) (v : BitVec 4) : (s.setCrField n v).running = s.running := rfl
@[simp] theorem setCrField_mem (n : CrField) (v : BitVec 4) : (s.setCrField n v).mem = s.mem := rfl
@[simp] theorem setCrField_port (n : CrField) (v : BitVec 4) : (s.setCrField n v).port = s.port := rfl
@[simp] theorem setCrField_traffic (n : CrField) (v : BitVec 4) : (s.setCrField n v).traffic = s.traffic := rfl
@[simp] theorem setCrField_params (n : CrField) (v : BitVec 4) : (s.setCrField n v).params = s.params := rfl
@[simp] theorem setCrField_tickCount (n : CrField) (v : BitVec 4) : (s.setCrField n v).tickCount = s.tickCount := rfl
@[simp] theorem setCrField_outcome (n : CrField) (v : BitVec 4) : (s.setCrField n v).outcome = s.outcome := rfl
@[simp] theorem setCrField_events (n : CrField) (v : BitVec 4) : (s.setCrField n v).events = s.events := rfl

/-! ## setCrBit -/

@[simp] theorem setCrBit_gprs (i : CrBit) (b : Bool) : (s.setCrBit i b).gprs = s.gprs := rfl
@[simp] theorem setCrBit_fprs (i : CrBit) (b : Bool) : (s.setCrBit i b).fprs = s.fprs := rfl
@[simp] theorem setCrBit_cr (i : CrBit) (b : Bool) : (s.setCrBit i b).cr = putBitAt s.cr i b := rfl
@[simp] theorem setCrBit_lr (i : CrBit) (b : Bool) : (s.setCrBit i b).lr = s.lr := rfl
@[simp] theorem setCrBit_ctr (i : CrBit) (b : Bool) : (s.setCrBit i b).ctr = s.ctr := rfl
@[simp] theorem setCrBit_pc (i : CrBit) (b : Bool) : (s.setCrBit i b).pc = s.pc := rfl
@[simp] theorem setCrBit_xer (i : CrBit) (b : Bool) : (s.setCrBit i b).xer = s.xer := rfl
@[simp] theorem setCrBit_msr (i : CrBit) (b : Bool) : (s.setCrBit i b).msr = s.msr := rfl
@[simp] theorem setCrBit_srr0 (i : CrBit) (b : Bool) : (s.setCrBit i b).srr0 = s.srr0 := rfl
@[simp] theorem setCrBit_srr1 (i : CrBit) (b : Bool) : (s.setCrBit i b).srr1 = s.srr1 := rfl
@[simp] theorem setCrBit_sprs (i : CrBit) (b : Bool) : (s.setCrBit i b).sprs = s.sprs := rfl
@[simp] theorem setCrBit_tb (i : CrBit) (b : Bool) : (s.setCrBit i b).tb = s.tb := rfl
@[simp] theorem setCrBit_fpscr (i : CrBit) (b : Bool) : (s.setCrBit i b).fpscr = s.fpscr := rfl
@[simp] theorem setCrBit_lastInvalid (i : CrBit) (b : Bool) : (s.setCrBit i b).lastInvalid = s.lastInvalid := rfl
@[simp] theorem setCrBit_running (i : CrBit) (b : Bool) : (s.setCrBit i b).running = s.running := rfl
@[simp] theorem setCrBit_mem (i : CrBit) (b : Bool) : (s.setCrBit i b).mem = s.mem := rfl
@[simp] theorem setCrBit_port (i : CrBit) (b : Bool) : (s.setCrBit i b).port = s.port := rfl
@[simp] theorem setCrBit_traffic (i : CrBit) (b : Bool) : (s.setCrBit i b).traffic = s.traffic := rfl
@[simp] theorem setCrBit_params (i : CrBit) (b : Bool) : (s.setCrBit i b).params = s.params := rfl
@[simp] theorem setCrBit_tickCount (i : CrBit) (b : Bool) : (s.setCrBit i b).tickCount = s.tickCount := rfl
@[simp] theorem setCrBit_outcome (i : CrBit) (b : Bool) : (s.setCrBit i b).outcome = s.outcome := rfl
@[simp] theorem setCrBit_events (i : CrBit) (b : Bool) : (s.setCrBit i b).events = s.events := rfl

/-! ## setCa -/

@[simp] theorem setCa_gprs (b : Bool) : (s.setCa b).gprs = s.gprs := rfl
@[simp] theorem setCa_fprs (b : Bool) : (s.setCa b).fprs = s.fprs := rfl
@[simp] theorem setCa_cr (b : Bool) : (s.setCa b).cr = s.cr := rfl
@[simp] theorem setCa_lr (b : Bool) : (s.setCa b).lr = s.lr := rfl
@[simp] theorem setCa_ctr (b : Bool) : (s.setCa b).ctr = s.ctr := rfl
@[simp] theorem setCa_pc (b : Bool) : (s.setCa b).pc = s.pc := rfl
@[simp] theorem setCa_xer (b : Bool) : (s.setCa b).xer = putBitAt s.xer 2 b := rfl
@[simp] theorem setCa_msr (b : Bool) : (s.setCa b).msr = s.msr := rfl
@[simp] theorem setCa_srr0 (b : Bool) : (s.setCa b).srr0 = s.srr0 := rfl
@[simp] theorem setCa_srr1 (b : Bool) : (s.setCa b).srr1 = s.srr1 := rfl
@[simp] theorem setCa_sprs (b : Bool) : (s.setCa b).sprs = s.sprs := rfl
@[simp] theorem setCa_tb (b : Bool) : (s.setCa b).tb = s.tb := rfl
@[simp] theorem setCa_fpscr (b : Bool) : (s.setCa b).fpscr = s.fpscr := rfl
@[simp] theorem setCa_lastInvalid (b : Bool) : (s.setCa b).lastInvalid = s.lastInvalid := rfl
@[simp] theorem setCa_running (b : Bool) : (s.setCa b).running = s.running := rfl
@[simp] theorem setCa_mem (b : Bool) : (s.setCa b).mem = s.mem := rfl
@[simp] theorem setCa_port (b : Bool) : (s.setCa b).port = s.port := rfl
@[simp] theorem setCa_traffic (b : Bool) : (s.setCa b).traffic = s.traffic := rfl
@[simp] theorem setCa_params (b : Bool) : (s.setCa b).params = s.params := rfl
@[simp] theorem setCa_tickCount (b : Bool) : (s.setCa b).tickCount = s.tickCount := rfl
@[simp] theorem setCa_outcome (b : Bool) : (s.setCa b).outcome = s.outcome := rfl
@[simp] theorem setCa_events (b : Bool) : (s.setCa b).events = s.events := rfl

/-! ## setOv -/

@[simp] theorem setOv_gprs (b : Bool) : (s.setOv b).gprs = s.gprs := rfl
@[simp] theorem setOv_fprs (b : Bool) : (s.setOv b).fprs = s.fprs := rfl
@[simp] theorem setOv_cr (b : Bool) : (s.setOv b).cr = s.cr := rfl
@[simp] theorem setOv_lr (b : Bool) : (s.setOv b).lr = s.lr := rfl
@[simp] theorem setOv_ctr (b : Bool) : (s.setOv b).ctr = s.ctr := rfl
@[simp] theorem setOv_pc (b : Bool) : (s.setOv b).pc = s.pc := rfl
@[simp] theorem setOv_xer (b : Bool) : (s.setOv b).xer = if b then putBitAt (putBitAt s.xer 1 true) 0 true else putBitAt s.xer 1 false := rfl
@[simp] theorem setOv_msr (b : Bool) : (s.setOv b).msr = s.msr := rfl
@[simp] theorem setOv_srr0 (b : Bool) : (s.setOv b).srr0 = s.srr0 := rfl
@[simp] theorem setOv_srr1 (b : Bool) : (s.setOv b).srr1 = s.srr1 := rfl
@[simp] theorem setOv_sprs (b : Bool) : (s.setOv b).sprs = s.sprs := rfl
@[simp] theorem setOv_tb (b : Bool) : (s.setOv b).tb = s.tb := rfl
@[simp] theorem setOv_fpscr (b : Bool) : (s.setOv b).fpscr = s.fpscr := rfl
@[simp] theorem setOv_lastInvalid (b : Bool) : (s.setOv b).lastInvalid = s.lastInvalid := rfl
@[simp] theorem setOv_running (b : Bool) : (s.setOv b).running = s.running := rfl
@[simp] theorem setOv_mem (b : Bool) : (s.setOv b).mem = s.mem := rfl
@[simp] theorem setOv_port (b : Bool) : (s.setOv b).port = s.port := rfl
@[simp] theorem setOv_traffic (b : Bool) : (s.setOv b).traffic = s.traffic := rfl
@[simp] theorem setOv_params (b : Bool) : (s.setOv b).params = s.params := rfl
@[simp] theorem setOv_tickCount (b : Bool) : (s.setOv b).tickCount = s.tickCount := rfl
@[simp] theorem setOv_outcome (b : Bool) : (s.setOv b).outcome = s.outcome := rfl
@[simp] theorem setOv_events (b : Bool) : (s.setOv b).events = s.events := rfl

/-! ## setSprCell -/

@[simp] theorem setSprCell_gprs (n : SprNum) (v : Word) : (s.setSprCell n v).gprs = s.gprs := rfl
@[simp] theorem setSprCell_fprs (n : SprNum) (v : Word) : (s.setSprCell n v).fprs = s.fprs := rfl
@[simp] theorem setSprCell_cr (n : SprNum) (v : Word) : (s.setSprCell n v).cr = s.cr := rfl
@[simp] theorem setSprCell_lr (n : SprNum) (v : Word) : (s.setSprCell n v).lr = s.lr := rfl
@[simp] theorem setSprCell_ctr (n : SprNum) (v : Word) : (s.setSprCell n v).ctr = s.ctr := rfl
@[simp] theorem setSprCell_pc (n : SprNum) (v : Word) : (s.setSprCell n v).pc = s.pc := rfl
@[simp] theorem setSprCell_xer (n : SprNum) (v : Word) : (s.setSprCell n v).xer = s.xer := rfl
@[simp] theorem setSprCell_msr (n : SprNum) (v : Word) : (s.setSprCell n v).msr = s.msr := rfl
@[simp] theorem setSprCell_srr0 (n : SprNum) (v : Word) : (s.setSprCell n v).srr0 = s.srr0 := rfl
@[simp] theorem setSprCell_srr1 (n : SprNum) (v : Word) : (s.setSprCell n v).srr1 = s.srr1 := rfl
@[simp] theorem setSprCell_sprs (n : SprNum) (v : Word) : (s.setSprCell n v).sprs = sparseSet 0 s.sprs n.toNat v := rfl
@[simp] theorem setSprCell_tb (n : SprNum) (v : Word) : (s.setSprCell n v).tb = s.tb := rfl
@[simp] theorem setSprCell_fpscr (n : SprNum) (v : Word) : (s.setSprCell n v).fpscr = s.fpscr := rfl
@[simp] theorem setSprCell_lastInvalid (n : SprNum) (v : Word) : (s.setSprCell n v).lastInvalid = s.lastInvalid := rfl
@[simp] theorem setSprCell_running (n : SprNum) (v : Word) : (s.setSprCell n v).running = s.running := rfl
@[simp] theorem setSprCell_mem (n : SprNum) (v : Word) : (s.setSprCell n v).mem = s.mem := rfl
@[simp] theorem setSprCell_port (n : SprNum) (v : Word) : (s.setSprCell n v).port = s.port := rfl
@[simp] theorem setSprCell_traffic (n : SprNum) (v : Word) : (s.setSprCell n v).traffic = s.traffic := rfl
@[simp] theorem setSprCell_params (n : SprNum) (v : Word) : (s.setSprCell n v).params = s.params := rfl
@[simp] theorem setSprCell_tickCount (n : SprNum) (v : Word) : (s.setSprCell n v).tickCount = s.tickCount := rfl
@[simp] theorem setSprCell_outcome (n : SprNum) (v : Word) : (s.setSprCell n v).outcome = s.outcome := rfl
@[simp] theorem setSprCell_events (n : SprNum) (v : Word) : (s.setSprCell n v).events = s.events := rfl

/-! ## putBytes -/

@[simp] theorem putBytes_gprs (a : Word) (w : Width) (v : DWord) : (s.putBytes a w v).gprs = s.gprs := rfl
@[simp] theorem putBytes_fprs (a : Word) (w : Width) (v : DWord) : (s.putBytes a w v).fprs = s.fprs := rfl
@[simp] theorem putBytes_cr (a : Word) (w : Width) (v : DWord) : (s.putBytes a w v).cr = s.cr := rfl
@[simp] theorem putBytes_lr (a : Word) (w : Width) (v : DWord) : (s.putBytes a w v).lr = s.lr := rfl
@[simp] theorem putBytes_ctr (a : Word) (w : Width) (v : DWord) : (s.putBytes a w v).ctr = s.ctr := rfl
@[simp] theorem putBytes_pc (a : Word) (w : Width) (v : DWord) : (s.putBytes a w v).pc = s.pc := rfl
@[simp] theorem putBytes_xer (a : Word) (w : Width) (v : DWord) : (s.putBytes a w v).xer = s.xer := rfl
@[simp] theorem putBytes_msr (a : Word) (w : Width) (v : DWord) : (s.putBytes a w v).msr = s.msr := rfl
@[simp] theorem putBytes_srr0 (a : Word) (w : Width) (v : DWord) : (s.putBytes a w v).srr0 = s.srr0 := rfl
@[simp] theorem putBytes_srr1 (a : Word) (w : Width) (v : DWord) : (s.putBytes a w v).srr1 = s.srr1 := rfl
@[simp] theorem putBytes_sprs (a : Word) (w : Width) (v : DWord) : (s.putBytes a w v).sprs = s.sprs := rfl
@[simp] theorem putBytes_tb (a : Word) (w : Width) (v : DWord) : (s.putBytes a w v).tb = s.tb := rfl
@[simp] theorem putBytes_fpscr (a : Word) (w : Width) (v : DWord) : (s.putBytes a w v).fpscr = s.fpscr := rfl
@[simp] theorem putBytes_lastInvalid (a : Word) (w : Width) (v : DWord) : (s.putBytes a w v).lastInvalid = s.lastInvalid := rfl
@[simp] theorem putBytes_running (a : Word) (w : Width) (v : DWord) : (s.putBytes a w v).running = s.running := rfl
@[simp] theorem putBytes_mem (a : Word) (w : Width) (v : DWord) : (s.putBytes a w v).mem = writeBytes s.mem a.toNat w.bytes v := rfl
@[simp] theorem putBytes_port (a : Word) (w : Width) (v : DWord) : (s.putBytes a w v).port = s.port := rfl
@[simp] theorem putBytes_traffic (a : Word) (w : Width) (v : DWord) : (s.putBytes a w v).traffic = s.traffic := rfl
@[simp] theorem putBytes_params (a : Word) (w : Width) (v : DWord) : (s.putBytes a w v).params = s.params := rfl
@[simp] theorem putBytes_tickCount (a : Word) (w : Width) (v : DWord) : (s.putBytes a w v).tickCount = s.tickCount := rfl
@[simp] theorem putBytes_outcome (a : Word) (w : Width) (v : DWord) : (s.putBytes a w v).outcome = s.outcome := rfl
@[simp] theorem putBytes_events (a : Word) (w : Width) (v : DWord) : (s.putBytes a w v).events = s.events := rfl

/-! ## setFpscr -/

@[simp] theorem setFpscr_gprs (w : Word) : (s.setFpscr w).gprs = s.gprs := rfl
@[simp] theorem setFpscr_fprs (w : Word) : (s.setFpscr w).fprs = s.fprs := rfl
@[simp] theorem setFpscr_cr (w : Word) : (s.setFpscr w).cr = s.cr := rfl
@[simp] theorem setFpscr_lr (w : Word) : (s.setFpscr w).lr = s.lr := rfl
@[simp] theorem setFpscr_ctr (w : Word) : (s.setFpscr w).ctr = s.ctr := rfl
@[simp] theorem setFpscr_pc (w : Word) : (s.setFpscr w).pc = s.pc := rfl
@[simp] theorem setFpscr_xer (w : Word) : (s.setFpscr w).xer = s.xer := rfl
@[simp] theorem setFpscr_msr (w : Word) : (s.setFpscr w).msr = s.msr := rfl
@[simp] theorem setFpscr_srr0 (w : Word) : (s.setFpscr w).srr0 = s.srr0 := rfl
@[simp] theorem setFpscr_srr1 (w : Word) : (s.setFpscr w).srr1 = s.srr1 := rfl
@[simp] theorem setFpscr_sprs (w : Word) : (s.setFpscr w).sprs = s.sprs := rfl
@[simp] theorem setFpscr_tb (w : Word) : (s.setFpscr w).tb = s.tb := rfl
@[simp] theorem setFpscr_fpscr (w : Word) : (s.setFpscr w).fpscr = w := rfl
@[simp] theorem setFpscr_lastInvalid (w : Word) : (s.setFpscr w).lastInvalid = s.lastInvalid := rfl
@[simp] theorem setFpscr_running (w : Word) : (s.setFpscr w).running = s.running := rfl
@[simp] theorem setFpscr_mem (w : Word) : (s.setFpscr w).mem = s.mem := rfl
@[simp] theorem setFpscr_port (w : Word) : (s.setFpscr w).port = s.port := rfl
@[simp] theorem setFpscr_traffic (w : Word) : (s.setFpscr w).traffic = s.traffic := rfl
@[simp] theorem setFpscr_params (w : Word) : (s.setFpscr w).params = s.params := rfl
@[simp] theorem setFpscr_tickCount (w : Word) : (s.setFpscr w).tickCount = s.tickCount := rfl
@[simp] theorem setFpscr_outcome (w : Word) : (s.setFpscr w).outcome = s.outcome := rfl
@[simp] theorem setFpscr_events (w : Word) : (s.setFpscr w).events = s.events := rfl

/-! ## completed -/

@[simp] theorem completed_gprs : s.completed.gprs = s.gprs := rfl
@[simp] theorem completed_fprs : s.completed.fprs = s.fprs := rfl
@[simp] theorem completed_cr : s.completed.cr = s.cr := rfl
@[simp] theorem completed_lr : s.completed.lr = s.lr := rfl
@[simp] theorem completed_ctr : s.completed.ctr = s.ctr := rfl
@[simp] theorem completed_pc : s.completed.pc = s.pc + 4 := rfl
@[simp] theorem completed_xer : s.completed.xer = s.xer := rfl
@[simp] theorem completed_msr : s.completed.msr = s.msr := rfl
@[simp] theorem completed_srr0 : s.completed.srr0 = s.srr0 := rfl
@[simp] theorem completed_srr1 : s.completed.srr1 = s.srr1 := rfl
@[simp] theorem completed_sprs : s.completed.sprs = s.sprs := rfl
@[simp] theorem completed_tb : s.completed.tb = s.tb := rfl
@[simp] theorem completed_fpscr : s.completed.fpscr = s.fpscr := rfl
@[simp] theorem completed_lastInvalid : s.completed.lastInvalid = s.lastInvalid := rfl
@[simp] theorem completed_running : s.completed.running = s.running := rfl
@[simp] theorem completed_mem : s.completed.mem = s.mem := rfl
@[simp] theorem completed_port : s.completed.port = s.port := rfl
@[simp] theorem completed_traffic : s.completed.traffic = s.traffic := rfl
@[simp] theorem completed_params : s.completed.params = s.params := rfl
@[simp] theorem completed_tickCount : s.completed.tickCount = s.tickCount := rfl
@[simp] theorem completed_outcome : s.completed.outcome = some .ok := rfl
@[simp] theorem completed_events : s.completed.events = s.events := rfl

/-! ## redirected -/

@[simp] theorem redirected_gprs (t : Word) : (s.redirected t).gprs = s.gprs := rfl
@[simp] theorem redirected_fprs (t : Word) : (s.redirected t).fprs = s.fprs := rfl
@[simp] theorem redirected_cr (t : Word) : (s.redirected t).cr = s.cr := rfl
@[simp] theorem redirected_lr (t : Word) : (s.redirected t).lr = s.lr := rfl
@[simp] theorem redirected_ctr (t : Word) : (s.redirected t).ctr = s.ctr := rfl
@[simp] theorem redirected_pc (t : Word) : (s.redirected t).pc = t := rfl
@[simp] theorem redirected_xer (t : Word) : (s.redirected t).xer = s.xer := rfl
@[simp] theorem redirected_msr (t : Word) : (s.redirected t).msr = s.msr := rfl
@[simp] theorem redirected_srr0 (t : Word) : (s.redirected t).srr0 = s.srr0 := rfl
@[simp] theorem redirected_srr1 (t : Word) : (s.redirected t).srr1 = s.srr1 := rfl
@[simp] theorem redirected_sprs (t : Word) : (s.redirected t).sprs = s.sprs := rfl
@[simp] theorem redirected_tb (t : Word) : (s.redirected t).tb = s.tb := rfl
@[simp] theorem redirected_fpscr (t : Word) : (s.redirected t).fpscr = s.fpscr := rfl
@[simp] theorem redirected_lastInvalid (t : Word) : (s.redirected t).lastInvalid = s.lastInvalid := rfl
@[simp] theorem redirected_running (t : Word) : (s.redirected t).running = s.running := rfl
@[simp] theorem redirected_mem (t : Word) : (s.redirected t).mem = s.mem := rfl
@[simp] theorem redirected_port (t : Word) : (s.redirected t).port = s.port := rfl
@[simp] theorem redirected_traffic (t : Word) : (s.redirected t).traffic = s.traffic := rfl
@[simp] theorem redirected_params (t : Word) : (s.redirected t).params = s.params := rfl
@[simp] theorem redirected_tickCount (t : Word) : (s.redirected t).tickCount = s.tickCount := rfl
@[simp] theorem redirected_outcome (t : Word) : (s.redirected t).outcome = some .ok := rfl
@[simp] theorem redirected_events (t : Word) : (s.redirected t).events = s.events := rfl

/-! ## failed -/

@[simp] theorem failed_gprs (o : StepOutcome) : (s.failed o).gprs = s.gprs := rfl
@[simp] theorem failed_fprs (o : StepOutcome) : (s.failed o).fprs = s.fprs := rfl
@[simp] theorem failed_cr (o : StepOutcome) : (s.failed o).cr = s.cr := rfl
@[simp] theorem failed_lr (o : StepOutcome) : (s.failed o).lr = s.lr := rfl
@[simp] theorem failed_ctr (o : StepOutcome) : (s.failed o).ctr = s.ctr := rfl
@[simp] theorem failed_pc (o : StepOutcome) : (s.failed o).pc = s.pc := rfl
@[simp] theorem failed_xer (o : StepOutcome) : (s.failed o).xer = s.xer := rfl
@[simp] theorem failed_msr (o : StepOutcome) : (s.failed o).msr = s.msr := rfl
@[simp] theorem failed_srr0 (o : StepOutcome) : (s.failed o).srr0 = s.srr0 := rfl
@[simp] theorem failed_srr1 (o : StepOutcome) : (s.failed o).srr1 = s.srr1 := rfl
@[simp] theorem failed_sprs (o : StepOutcome) : (s.failed o).sprs = s.sprs := rfl
@[simp] theorem failed_tb (o : StepOutcome) : (s.failed o).tb = s.tb := rfl
@[simp] theorem failed_fpscr (o : StepOutcome) : (s.failed o).fpscr = s.fpscr := rfl
@[simp] theorem failed_lastInvalid (o : StepOutcome) : (s.failed o).lastInvalid = s.lastInvalid := rfl
@[simp] theorem failed_running (o : StepOutcome) : (s.failed o).running = s.running := rfl
@[simp] theorem failed_mem (o : StepOutcome) : (s.failed o).mem = s.mem := rfl
@[simp] theorem failed_port (o : StepOutcome) : (s.failed o).port = s.port := rfl
@[simp] theorem failed_traffic (o : StepOutcome) : (s.failed o).traffic = s.traffic := rfl
@[simp] theorem failed_params (o : StepOutcome) : (s.failed o).params = s.params := rfl
@[simp] theorem failed_tickCount (o : StepOutcome) : (s.failed o).tickCount = s.tickCount := rfl
@[simp] theorem failed_outcome (o : StepOutcome) : (s.failed o).outcome = some o := rfl
@[simp] theorem failed_events (o : StepOutcome) : (s.failed o).events = s.events := rfl

/-! ## reported -/

@[simp] theorem reported_gprs (t : Tag) (w : Word) : (s.reported t w).gprs = s.gprs := rfl
@[simp] theorem reported_fprs (t : Tag) (w : Word) : (s.reported t w).fprs = s.fprs := rfl
@[simp] theorem reported_cr (t : Tag) (w : Word) : (s.reported t w).cr = s.cr := rfl
@[simp] theorem reported_lr (t : Tag) (w : Word) : (s.reported t w).lr = s.lr := rfl
@[simp] theorem reported_ctr (t : Tag) (w : Word) : (s.reported t w).ctr = s.ctr := rfl
@[simp] theorem reported_pc (t : Tag) (w : Word) : (s.reported t w).pc = s.pc + 4 := rfl
@[simp] theorem reported_xer (t : Tag) (w : Word) : (s.reported t w).xer = s.xer := rfl
@[simp] theorem reported_msr (t : Tag) (w : Word) : (s.reported t w).msr = s.msr := rfl
@[simp] theorem reported_srr0 (t : Tag) (w : Word) : (s.reported t w).srr0 = s.srr0 := rfl
@[simp] theorem reported_srr1 (t : Tag) (w : Word) : (s.reported t w).srr1 = s.srr1 := rfl
@[simp] theorem reported_sprs (t : Tag) (w : Word) : (s.reported t w).sprs = s.sprs := rfl
@[simp] theorem reported_tb (t : Tag) (w : Word) : (s.reported t w).tb = s.tb := rfl
@[simp] theorem reported_fpscr (t : Tag) (w : Word) : (s.reported t w).fpscr = s.fpscr := rfl
@[simp] theorem reported_lastInvalid (t : Tag) (w : Word) : (s.reported t w).lastInvalid = some ⟨t, s.pc, w⟩ := rfl
@[simp] theorem reported_running (t : Tag) (w : Word) : (s.reported t w).running = s.running := rfl
@[simp] theorem reported_mem (t : Tag) (w : Word) : (s.reported t w).mem = s.mem := rfl
@[simp] theorem reported_port (t : Tag) (w : Word) : (s.reported t w).port = s.port := rfl
@[simp] theorem reported_traffic (t : Tag) (w : Word) : (s.reported t w).traffic = s.traffic := rfl
@[simp] theorem reported_params (t : Tag) (w : Word) : (s.reported t w).params = s.params := rfl
@[simp] theorem reported_tickCount (t : Tag) (w : Word) : (s.reported t w).tickCount = s.tickCount := rfl
@[simp] theorem reported_outcome (t : Tag) (w : Word) : (s.reported t w).outcome = some (.invalid ⟨t, s.pc, w⟩) := rfl
@[simp] theorem reported_events (t : Tag) (w : Word) : (s.reported t w).events = s.events ++ [⟨t, s.pc, w⟩] := rfl

/-! ## tick -/

@[simp] theorem tick_gprs : s.tick.gprs = s.gprs := rfl
@[simp] theorem tick_fprs : s.tick.fprs = s.fprs := rfl
@[simp] theorem tick_cr : s.tick.cr = s.cr := rfl
@[simp] theorem tick_lr : s.tick.lr = s.lr := rfl
@[simp] theorem tick_ctr : s.tick.ctr = s.ctr := rfl
@[simp] theorem tick_pc : s.tick.pc = s.pc := rfl
@[simp] theorem tick_xer : s.tick.xer = s.xer := rfl
@[simp] theorem tick_msr : s.tick.msr = s.msr := rfl
@[simp] theorem tick_srr0 : s.tick.srr0 = s.srr0 := rfl
@[simp] theorem tick_srr1 : s.tick.srr1 = s.srr1 := rfl
@[simp] theorem tick_sprs : s.tick.sprs = s.sprs := rfl
@[simp] theorem tick_tb : s.tick.tb = s.tb + Config.tbTick s.tickCount := rfl
@[simp] theorem tick_fpscr : s.tick.fpscr = s.fpscr := rfl
@[simp] theorem tick_lastInvalid : s.tick.lastInvalid = s.lastInvalid := rfl
@[simp] theorem tick_running : s.tick.running = s.running := rfl
@[simp] theorem tick_mem : s.tick.mem = s.mem := rfl
@[simp] theorem tick_port : s.tick.port = s.port := rfl
@[simp] theorem tick_traffic : s.tick.traffic = s.traffic := rfl
@[simp] theorem tick_params : s.tick.params = s.params := rfl
@[simp] theorem tick_tickCount : s.tick.tickCount = s.tickCount + 1 := rfl
@[simp] theorem tick_outcome : s.tick.outcome = s.outcome := rfl
@[simp] theorem tick_events : s.tick.events = s.events := rfl

/-! ## updateBase -/

@[simp] theorem updateBase_fprs (b : Option GprNum) (ea : Word) : (s.updateBase b ea).fprs = s.fprs := by cases b <;> rfl
@[simp] theorem updateBase_cr (b : Option GprNum) (ea : Word) : (s.updateBase b ea).cr = s.cr := by cases b <;> rfl
@[simp] theorem updateBase_lr (b : Option GprNum) (ea : Word) : (s.updateBase b ea).lr = s.lr := by cases b <;> rfl
@[simp] theorem updateBase_ctr (b : Option GprNum) (ea : Word) : (s.updateBase b ea).ctr = s.ctr := by cases b <;> rfl
@[simp] theorem updateBase_pc (b : Option GprNum) (ea : Word) : (s.updateBase b ea).pc = s.pc := by cases b <;> rfl
@[simp] theorem updateBase_xer (b : Option GprNum) (ea : Word) : (s.updateBase b ea).xer = s.xer := by cases b <;> rfl
@[simp] theorem updateBase_msr (b : Option GprNum) (ea : Word) : (s.updateBase b ea).msr = s.msr := by cases b <;> rfl
@[simp] theorem updateBase_srr0 (b : Option GprNum) (ea : Word) : (s.updateBase b ea).srr0 = s.srr0 := by cases b <;> rfl
@[simp] theorem updateBase_srr1 (b : Option GprNum) (ea : Word) : (s.updateBase b ea).srr1 = s.srr1 := by cases b <;> rfl
@[simp] theorem updateBase_sprs (b : Option GprNum) (ea : Word) : (s.updateBase b ea).sprs = s.sprs := by cases b <;> rfl
@[simp] theorem updateBase_tb (b : Option GprNum) (ea : Word) : (s.updateBase b ea).tb = s.tb := by cases b <;> rfl
@[simp] theorem updateBase_fpscr (b : Option GprNum) (ea : Word) : (s.updateBase b ea).fpscr = s.fpscr := by cases b <;> rfl
@[simp] theorem updateBase_lastInvalid (b : Option GprNum) (ea : Word) : (s.updateBase b ea).lastInvalid = s.lastInvalid := by cases b <;> rfl
@[simp] theorem updateBase_running (b : Option GprNum) (ea : Word) : (s.updateBase b ea).running = s.running := by cases b <;> rfl
@[simp] theorem updateBase_mem (b : Option GprNum) (ea : Word) : (s.updateBase b ea).mem = s.mem := by cases b <;> rfl
@[simp] theorem updateBase_port (b : Option GprNum) (ea : Word) : (s.updateBase b ea).port = s.port := by cases b <;> rfl
@[simp] theorem updateBase_traffic (b : Option GprNum) (ea : Word) : (s.updateBase b ea).traffic = s.traffic := by cases b <;> rfl
@[simp] theorem updateBase_params (b : Option GprNum) (ea : Word) : (s.updateBase b ea).params = s.params := by cases b <;> rfl
@[simp] theorem updateBase_tickCount (b : Option GprNum) (ea : Word) : (s.updateBase b ea).tickCount = s.tickCount := by cases b <;> rfl
@[simp] theorem updateBase_outcome (b : Option GprNum) (ea : Word) : (s.updateBase b ea).outcome = s.outcome := by cases b <;> rfl
@[simp] theorem updateBase_events (b : Option GprNum) (ea : Word) : (s.updateBase b ea).events = s.events := by cases b <;> rfl

/-! ## recordCr0 -/

@[simp] theorem recordCr0_gprs (rc : Bool) (r : Word) : (s.recordCr0 rc r).gprs = s.gprs := by cases rc <;> rfl
@[simp] theorem recordCr0_fprs (rc : Bool) (r : Word) : (s.recordCr0 rc r).fprs = s.fprs := by cases rc <;> rfl
@[simp] theorem recordCr0_lr (rc : Bool) (r : Word) : (s.recordCr0 rc r).lr = s.lr := by cases rc <;> rfl
@[simp] theorem recordCr0_ctr (rc : Bool) (r : Word) : (s.recordCr0 rc r).ctr = s.ctr := by cases rc <;> rfl
@[simp] theorem recordCr0_pc (rc : Bool) (r : Word) : (s.recordCr0 rc r).pc = s.pc := by cases rc <;> rfl
@[simp] theorem recordCr0_xer (rc : Bool) (r : Word) : (s.recordCr0 rc r).xer = s.xer := by cases rc <;> rfl
@[simp] theorem recordCr0_msr (rc : Bool) (r : Word) : (s.recordCr0 rc r).msr = s.msr := by cases rc <;> rfl
@[simp] theorem recordCr0_srr0 (rc : Bool) (r : Word) : (s.recordCr0 rc r).srr0 = s.srr0 := by cases rc <;> rfl
@[simp] theorem recordCr0_srr1 (rc : Bool) (r : Word) : (s.recordCr0 rc r).srr1 = s.srr1 := by cases rc <;> rfl
@[simp] theorem recordCr0_sprs (rc : Bool) (r : Word) : (s.recordCr0 rc r).sprs = s.sprs := by cases rc <;> rfl
@[simp] theorem recordCr0_tb (rc : Bool) (r : Word) : (s.recordCr0 rc r).tb = s.tb := by cases rc <;> rfl
@[simp] theorem recordCr0_fpscr (rc : Bool) (r : Word) : (s.recordCr0 rc r).fpscr = s.fpscr := by cases rc <;> rfl
@[simp] theorem recordCr0_lastInvalid (rc : Bool) (r : Word) : (s.recordCr0 rc r).lastInvalid = s.lastInvalid := by cases rc <;> rfl
@[simp] theorem recordCr0_running (rc : Bool) (r : Word) : (s.recordCr0 rc r).running = s.running := by cases rc <;> rfl
@[simp] theorem recordCr0_mem (rc : Bool) (r : Word) : (s.recordCr0 rc r).mem = s.mem := by cases rc <;> rfl
@[simp] theorem recordCr0_port (rc : Bool) (r : Word) : (s.recordCr0 rc r).port = s.port := by cases rc <;> rfl
@[simp] theorem recordCr0_traffic (rc : Bool) (r : Word) : (s.recordCr0 rc r).traffic = s.traffic := by cases rc <;> rfl
@[simp] theorem recordCr0_params (rc : Bool) (r : Word) : (s.recordCr0 rc r).params = s.params := by cases rc <;> rfl
@[simp] theorem recordCr0_tickCount (rc : Bool) (r : Word) : (s.recordCr0 rc r).tickCount = s.tickCount := by cases rc <;> rfl
@[simp] theorem recordCr0_outcome (rc : Bool) (r : Word) : (s.recordCr0 rc r).outcome = s.outcome := by cases rc <;> rfl
@[simp] theorem recordCr0_events (rc : Bool) (r : Word) : (s.recordCr0 rc r).events = s.events := by cases rc <;> rfl

/-! ## setOvIf -/

@[simp] theorem setOvIf_gprs (oe ov : Bool) : (s.setOvIf oe ov).gprs = s.gprs := by cases oe <;> rfl
@[simp] theorem setOvIf_fprs (oe ov : Bool) : (s.setOvIf oe ov).fprs = s.fprs := by cases oe <;> rfl
@[simp] theorem setOvIf_cr (oe ov : Bool) : (s.setOvIf oe ov).cr = s.cr := by cases oe <;> rfl
@[simp] theorem setOvIf_lr (oe ov : Bool) : (s.setOvIf oe ov).lr = s.lr := by cases oe <;> rfl
@[simp] theorem setOvIf_ctr (oe ov : Bool) : (s.setOvIf oe ov).ctr = s.ctr := by cases oe <;> rfl
@[simp] theorem setOvIf_pc (oe ov : Bool) : (s.setOvIf oe ov).pc = s.pc := by cases oe <;> rfl
@[simp] theorem setOvIf_msr (oe ov : Bool) : (s.setOvIf oe ov).msr = s.msr := by cases oe <;> rfl
@[simp] theorem setOvIf_srr0 (oe ov : Bool) : (s.setOvIf oe ov).srr0 = s.srr0 := by cases oe <;> rfl
@[simp] theorem setOvIf_srr1 (oe ov : Bool) : (s.setOvIf oe ov).srr1 = s.srr1 := by cases oe <;> rfl
@[simp] theorem setOvIf_sprs (oe ov : Bool) : (s.setOvIf oe ov).sprs = s.sprs := by cases oe <;> rfl
@[simp] theorem setOvIf_tb (oe ov : Bool) : (s.setOvIf oe ov).tb = s.tb := by cases oe <;> rfl
@[simp] theorem setOvIf_fpscr (oe ov : Bool) : (s.setOvIf oe ov).fpscr = s.fpscr := by cases oe <;> rfl
@[simp] theorem setOvIf_lastInvalid (oe ov : Bool) : (s.setOvIf oe ov).lastInvalid = s.lastInvalid := by cases oe <;> rfl
@[simp] theorem setOvIf_running (oe ov : Bool) : (s.setOvIf oe ov).running = s.running := by cases oe <;> rfl
@[simp] theorem setOvIf_mem (oe ov : Bool) : (s.setOvIf oe ov).mem = s.mem := by cases oe <;> rfl
@[simp] theorem setOvIf_port (oe ov : Bool) : (s.setOvIf oe ov).port = s.port := by cases oe <;> rfl
@[simp] theorem setOvIf_traffic (oe ov : Bool) : (s.setOvIf oe ov).traffic = s.traffic := by cases oe <;> rfl
@[simp] theorem setOvIf_params (oe ov : Bool) : (s.setOvIf oe ov).params = s.params := by cases oe <;> rfl
@[simp] theorem setOvIf_tickCount (oe ov : Bool) : (s.setOvIf oe ov).tickCount = s.tickCount := by cases oe <;> rfl
@[simp] theorem setOvIf_outcome (oe ov : Bool) : (s.setOvIf oe ov).outcome = s.outcome := by cases oe <;> rfl
@[simp] theorem setOvIf_events (oe ov : Bool) : (s.setOvIf oe ov).events = s.events := by cases oe <;> rfl

/-! ## recordFp -/

@[simp] theorem recordFp_gprs (rc : Bool) : (s.recordFp rc).gprs = s.gprs := by cases rc <;> rfl
@[simp] theorem recordFp_fprs (rc : Bool) : (s.recordFp rc).fprs = s.fprs := by cases rc <;> rfl
@[simp] theorem recordFp_lr (rc : Bool) : (s.recordFp rc).lr = s.lr := by cases rc <;> rfl
@[simp] theorem recordFp_ctr (rc : Bool) : (s.recordFp rc).ctr = s.ctr := by cases rc <;> rfl
@[simp] theorem recordFp_pc (rc : Bool) : (s.recordFp rc).pc = s.pc := by cases rc <;> rfl
@[simp] theorem recordFp_xer (rc : Bool) : (s.recordFp rc).xer = s.xer := by cases rc <;> rfl
@[simp] theorem recordFp_msr (rc : Bool) : (s.recordFp rc).msr = s.msr := by cases rc <;> rfl
@[simp] theorem recordFp_srr0 (rc : Bool) : (s.recordFp rc).srr0 = s.srr0 := by cases rc <;> rfl
@[simp] theorem recordFp_srr1 (rc : Bool) : (s.recordFp rc).srr1 = s.srr1 := by cases rc <;> rfl
@[simp] theorem recordFp_sprs (rc : Bool) : (s.recordFp rc).sprs = s.sprs := by cases rc <;> rfl
@[simp] theorem recordFp_tb (rc : Bool) : (s.recordFp rc).tb = s.tb := by cases rc <;> rfl
@[simp] theorem recordFp_fpscr (rc : Bool) : (s.recordFp rc).fpscr = s.fpscr := by cases rc <;> rfl
@[simp] theorem recordFp_lastInvalid (rc : Bool) : (s.recordFp rc).lastInvalid = s.lastInvalid := by cases rc <;> rfl
@[simp] theorem recordFp_running (rc : Bool) : (s.recordFp rc).running = s.running := by cases rc <;> rfl
@[simp] theorem recordFp_mem (rc : Bool) : (s.recordFp rc).mem = s.mem := by cases rc <;> rfl
@[simp] theorem recordFp_port (rc : Bool) : (s.recordFp rc).port = s.port := by cases rc <;> rfl
@[simp] theorem recordFp_traffic (rc : Bool) : (s.recordFp rc).traffic = s.traffic := by cases rc <;> rfl
@[simp] theorem recordFp_params (rc : Bool) : (s.recordFp rc).params = s.params := by cases rc <;> rfl
@[simp] theorem recordFp_tickCount (rc : Bool) : (s.recordFp rc).tickCount = s.tickCount := by cases rc <;> rfl
@[simp] theorem recordFp_outcome (rc : Bool) : (s.recordFp rc).outcome = s.outcome := by cases rc <;> rfl
@[simp] theorem recordFp_events (rc : Bool) : (s.recordFp rc).events = s.events := by cases rc <;> rfl

/-! ## link -/

@[simp] theorem link_gprs (lk : Bool) : (s.link lk).gprs = s.gprs := by cases lk <;> rfl
@[simp] theorem link_fprs (lk : Bool) : (s.link lk).fprs = s.fprs := by cases lk <;> rfl
@[simp] theorem link_cr (lk : Bool) : (s.link lk).cr = s.cr := by cases lk <;> rfl
@[simp] theorem link_ctr (lk : Bool) : (s.link lk).ctr = s.ctr := by cases lk <;> rfl
@[simp] theorem link_pc (lk : Bool) : (s.link lk).pc = s.pc := by cases lk <;> rfl
@[simp] theorem link_xer (lk : Bool) : (s.link lk).xer = s.xer := by cases lk <;> rfl
@[simp] theorem link_msr (lk : Bool) : (s.link lk).msr = s.msr := by cases lk <;> rfl
@[simp] theorem link_srr0 (lk : Bool) : (s.link lk).srr0 = s.srr0 := by cases lk <;> rfl
@[simp] theorem link_srr1 (lk : Bool) : (s.link lk).srr1 = s.srr1 := by cases lk <;> rfl
@[simp] theorem link_sprs (lk : Bool) : (s.link lk).sprs = s.sprs := by cases lk <;> rfl
@[simp] theorem link_tb (lk : Bool) : (s.link lk).tb = s.tb := by cases lk <;> rfl
@[simp] theorem link_fpscr (lk : Bool) : (s.link lk).fpscr = s.fpscr := by cases lk <;> rfl
@[simp] theorem link_lastInvalid (lk : Bool) : (s.link lk).lastInvalid = s.lastInvalid := by cases lk <;> rfl
@[simp] theorem link_running (lk : Bool) : (s.link lk).running = s.running := by cases lk <;> rfl
@[simp] theorem link_mem (lk : Bool) : (s.link lk).mem = s.mem := by cases lk <;> rfl
@[simp] theorem link_port (lk : Bool) : (s.link lk).port = s.port := by cases lk <;> rfl
@[simp] theorem link_traffic (lk : Bool) : (s.link lk).traffic = s.traffic := by cases lk <;> rfl
@[simp] theorem link_params (lk : Bool) : (s.link lk).params = s.params := by cases lk <;> rfl
@[simp] theorem link_tickCount (lk : Bool) : (s.link lk).tickCount = s.tickCount := by cases lk <;> rfl
@[simp] theorem link_outcome (lk : Bool) : (s.link lk).outcome = s.outcome := by cases lk <;> rfl
@[simp] theorem link_events (lk : Bool) : (s.link lk).events = s.events := by cases lk <;> rfl

/-! ## atCall -/

@[simp] theorem atCall_gprs : s.atCall.gprs = s.gprs := by rw [atCall_fields]
@[simp] theorem atCall_fprs : s.atCall.fprs = s.fprs := by rw [atCall_fields]
@[simp] theorem atCall_cr : s.atCall.cr = s.cr := by rw [atCall_fields]
@[simp] theorem atCall_lr : s.atCall.lr = s.lr := by rw [atCall_fields]
@[simp] theorem atCall_ctr : s.atCall.ctr = s.ctr := by rw [atCall_fields]
@[simp] theorem atCall_pc : s.atCall.pc = s.pc := by rw [atCall_fields]
@[simp] theorem atCall_xer : s.atCall.xer = s.xer := by rw [atCall_fields]
@[simp] theorem atCall_msr : s.atCall.msr = s.msr := by rw [atCall_fields]
@[simp] theorem atCall_srr0 : s.atCall.srr0 = s.srr0 := by rw [atCall_fields]
@[simp] theorem atCall_srr1 : s.atCall.srr1 = s.srr1 := by rw [atCall_fields]
@[simp] theorem atCall_sprs : s.atCall.sprs = s.sprs := by rw [atCall_fields]
@[simp] theorem atCall_tb : s.atCall.tb = s.tb := by rw [atCall_fields]
@[simp] theorem atCall_fpscr : s.atCall.fpscr = s.fpscr := by rw [atCall_fields]
@[simp] theorem atCall_lastInvalid : s.atCall.lastInvalid = s.lastInvalid := by rw [atCall_fields]
@[simp] theorem atCall_running : s.atCall.running = s.running := by rw [atCall_fields]
@[simp] theorem atCall_params : s.atCall.params = s.params := by rw [atCall_fields]
@[simp] theorem atCall_tickCount : s.atCall.tickCount = s.tickCount := by rw [atCall_fields]
@[simp] theorem atCall_outcome : s.atCall.outcome = s.outcome := by rw [atCall_fields]
@[simp] theorem atCall_events : s.atCall.events = s.events := by rw [atCall_fields]

/-! ## afterCalls -/

@[simp] theorem afterCalls_gprs (n : Nat) : (s.afterCalls n).gprs = s.gprs := by rw [afterCalls_fields]
@[simp] theorem afterCalls_fprs (n : Nat) : (s.afterCalls n).fprs = s.fprs := by rw [afterCalls_fields]
@[simp] theorem afterCalls_cr (n : Nat) : (s.afterCalls n).cr = s.cr := by rw [afterCalls_fields]
@[simp] theorem afterCalls_lr (n : Nat) : (s.afterCalls n).lr = s.lr := by rw [afterCalls_fields]
@[simp] theorem afterCalls_ctr (n : Nat) : (s.afterCalls n).ctr = s.ctr := by rw [afterCalls_fields]
@[simp] theorem afterCalls_pc (n : Nat) : (s.afterCalls n).pc = s.pc := by rw [afterCalls_fields]
@[simp] theorem afterCalls_xer (n : Nat) : (s.afterCalls n).xer = s.xer := by rw [afterCalls_fields]
@[simp] theorem afterCalls_msr (n : Nat) : (s.afterCalls n).msr = s.msr := by rw [afterCalls_fields]
@[simp] theorem afterCalls_srr0 (n : Nat) : (s.afterCalls n).srr0 = s.srr0 := by rw [afterCalls_fields]
@[simp] theorem afterCalls_srr1 (n : Nat) : (s.afterCalls n).srr1 = s.srr1 := by rw [afterCalls_fields]
@[simp] theorem afterCalls_sprs (n : Nat) : (s.afterCalls n).sprs = s.sprs := by rw [afterCalls_fields]
@[simp] theorem afterCalls_tb (n : Nat) : (s.afterCalls n).tb = s.tb := by rw [afterCalls_fields]
@[simp] theorem afterCalls_fpscr (n : Nat) : (s.afterCalls n).fpscr = s.fpscr := by rw [afterCalls_fields]
@[simp] theorem afterCalls_lastInvalid (n : Nat) : (s.afterCalls n).lastInvalid = s.lastInvalid := by rw [afterCalls_fields]
@[simp] theorem afterCalls_running (n : Nat) : (s.afterCalls n).running = s.running := by rw [afterCalls_fields]
@[simp] theorem afterCalls_params (n : Nat) : (s.afterCalls n).params = s.params := by rw [afterCalls_fields]
@[simp] theorem afterCalls_tickCount (n : Nat) : (s.afterCalls n).tickCount = s.tickCount := by rw [afterCalls_fields]
@[simp] theorem afterCalls_outcome (n : Nat) : (s.afterCalls n).outcome = s.outcome := by rw [afterCalls_fields]
@[simp] theorem afterCalls_events (n : Nat) : (s.afterCalls n).events = s.events := by rw [afterCalls_fields]

/-! ## Registers after writes -/

/-- Reading a general register after a write. -/
theorem gpr_setGpr (r x : GprNum) (v : Word) : (s.setGpr r v).gpr x = if x = r then v else s.gpr x := by
  simp only [State.gpr, State.setGpr, Vector.getElem_set]
  by_cases h : x = r
  · simp [h]
  · rw [if_neg h, if_neg]
    intro h'
    exact h (BitVec.eq_of_toNat_eq h'.symm)

@[simp] theorem gpr_setGpr_same (r : GprNum) (v : Word) : (s.setGpr r v).gpr r = v := by simp [gpr_setGpr]

/-- Reading a floating-point register after a write. -/
theorem fpr_setFpr (r x : FprNum) (v : DWord) : (s.setFpr r v).fpr x = if x = r then v else s.fpr x := by
  simp only [State.fpr, State.setFpr, Vector.getElem_set]
  by_cases h : x = r
  · simp [h]
  · rw [if_neg h, if_neg]
    intro h'
    exact h (BitVec.eq_of_toNat_eq h'.symm)

@[simp] theorem fpr_setFpr_same (r : FprNum) (v : DWord) : (s.setFpr r v).fpr r = v := by simp [fpr_setFpr]

/-- Two states with the same general registers read alike. -/
theorem gpr_congr {s t : State} (h : t.gprs = s.gprs) (r : GprNum) : t.gpr r = s.gpr r := by
  simp only [State.gpr, h]

/-- Two states with the same floating-point registers read alike. -/
theorem fpr_congr {s t : State} (h : t.fprs = s.fprs) (r : FprNum) : t.fpr r = s.fpr r := by
  simp only [State.fpr, h]

/-- Reading a cell of the SPR file after a write. -/
theorem sprCell_setSprCell (n x : SprNum) (v : Word) :
    (s.setSprCell n v).sprCell x = if x = n then v else s.sprCell x := by
  simp only [State.sprCell, State.setSprCell, sparseGet_set]
  by_cases h : x = n
  · simp [h]
  · rw [if_neg h, if_neg]
    intro h'
    exact h (BitVec.eq_of_toNat_eq h')

/-! ## Bits and fields after writes -/

/-- A bit of a register after one of its bits is replaced. -/
theorem getMsbD_putBitAt (w : Word) (i : CrBit) (b : Bool) (k : Nat) :
    (putBitAt w i b).getMsbD k = if k = i.toNat then b else w.getMsbD k := by
  have hi : i.toNat < 32 := i.isLt
  have hm : ∀ k < 32, (bitMask i).getMsbD k = decide (k = i.toNat) := by
    intro k hk
    unfold bitMask
    rw [BitVec.getMsbD_ushiftRight]
    by_cases h1 : k < i.toNat
    · simp [h1]; omega
    · have : (0x80000000 : Word).getMsbD (k - i.toNat) = decide (k - i.toNat = 0) := by
        have hlt : k - i.toNat < 32 := by omega
        generalize k - i.toNat = j at hlt
        interval_cases j <;> decide
      have e : decide (k - i.toNat = 0) = decide (k = i.toNat) := by
        rw [decide_eq_decide]
        omega
      rw [this, e]
      simp [hk, h1]
  by_cases hk : k < 32
  · cases b <;> simp only [putBitAt, Bool.false_eq_true, if_false, if_true, BitVec.getMsbD_or, BitVec.getMsbD_and,
      BitVec.getMsbD_not, hm k hk, hk] <;> by_cases h : k = i.toNat <;> simp [h]
  · have hne : k ≠ i.toNat := by omega
    rw [if_neg hne, BitVec.getMsbD_of_ge _ _ (by omega), BitVec.getMsbD_of_ge _ _ (by omega)]

/-- The bits of the mask of a field. -/
theorem getMsbD_fieldMask (n : CrField) (k : Nat) : (fieldMask n).getMsbD k = decide (k / 4 = n.toNat) := by
  have hn : n.toNat < 8 := n.isLt
  unfold fieldMask
  rw [BitVec.getMsbD_ushiftRight]
  by_cases hk : k < 32
  · by_cases h1 : k < 4 * n.toNat
    · simp [h1]; omega
    · have : (0xF0000000 : Word).getMsbD (k - 4 * n.toNat) = decide (k - 4 * n.toNat < 4) := by
        have hlt : k - 4 * n.toNat < 32 := by omega
        generalize k - 4 * n.toNat = j at hlt
        interval_cases j <;> decide
      have e : decide (k - 4 * n.toNat < 4) = decide (k / 4 = n.toNat) := by
        rw [decide_eq_decide]
        omega
      rw [this, e]
      simp [hk, h1]
  · simp only [hk]
    simp
    omega

/-- A bit of a register after one of its four-bit fields is replaced. -/
theorem getMsbD_putField (w : Word) (n : CrField) (v : BitVec 4) (k : Nat) :
    (putField w n v).getMsbD k = if k / 4 = n.toNat then v.getMsbD (k % 4) else w.getMsbD k := by
  have hn : n.toNat < 8 := n.isLt
  unfold putField
  rw [BitVec.getMsbD_or, BitVec.getMsbD_and, BitVec.getMsbD_not, getMsbD_fieldMask]
  by_cases hk : k < 32
  · have hv : (v.setWidth 32 <<< (28 - 4 * n.toNat)).getMsbD k = (decide (k / 4 = n.toNat) && v.getMsbD (k % 4)) := by
      simp only [BitVec.getMsbD_eq_getLsbD, BitVec.getLsbD_shiftLeft, BitVec.getLsbD_setWidth]
      by_cases h : k / 4 = n.toNat
      · have e1 : 32 - 1 - k - (28 - 4 * n.toNat) = 4 - 1 - k % 4 := by omega
        have h4 : k % 4 < 4 := by omega
        have h5 : ¬ (32 - 1 - k < 28 - 4 * n.toNat) := by omega
        have h6 : 31 - k < 32 := by omega
        have h7 : 3 - k % 4 < 32 := by omega
        simp only [h, e1, h4, h5, hk]
        simp [h6, h7]
      · simp only [h, decide_false, Bool.false_and, hk, decide_true, Bool.true_and]
        by_cases h5 : 32 - 1 - k < 28 - 4 * n.toNat
        · simp [h5]
        · have : 4 ≤ 32 - 1 - k - (28 - 4 * n.toNat) := by omega
          simp [BitVec.getLsbD_of_ge _ _ this]
    rw [hv]
    by_cases h : k / 4 = n.toNat <;> simp [h, hk]
  · have hne : ¬ k / 4 = n.toNat := by omega
    rw [if_neg hne, BitVec.getMsbD_of_ge (v.setWidth 32 <<< (28 - 4 * n.toNat)) k (by omega),
      BitVec.getMsbD_of_ge w k (by omega)]
    simp

/-- A bit of a field is a bit of the register. -/
theorem getMsbD_getField (w : Word) (n : CrField) (k : Nat) (hk : k < 4) :
    (getField w n).getMsbD k = w.getMsbD (4 * n.toNat + k) := by
  have hn : n.toNat < 8 := n.isLt
  unfold getField
  simp only [BitVec.getMsbD_eq_getLsbD, BitVec.getLsbD_extractLsb', hk]
  have e : 28 - 4 * n.toNat + (4 - 1 - k) = 32 - 1 - (4 * n.toNat + k) := by omega
  have h1 : 4 - 1 - k < 4 := by omega
  have h2 : 4 * n.toNat + k < 32 := by omega
  rw [e]
  simp [h1, h2]

/-- A field replaced reads as what was put in. -/
theorem getField_putField_same (w : Word) (n : CrField) (v : BitVec 4) : getField (putField w n v) n = v := by
  apply BitVec.eq_of_getMsbD_eq
  intro k hk
  have e1 : (4 * n.toNat + k) / 4 = n.toNat := by omega
  have e2 : (4 * n.toNat + k) % 4 = k := by omega
  rw [getMsbD_getField _ _ _ hk, getMsbD_putField, if_pos e1, e2]

/-- Every other field reads as before. -/
theorem getField_putField_other (w : Word) {n x : CrField} (v : BitVec 4) (h : x ≠ n) :
    getField (putField w n v) x = getField w x := by
  apply BitVec.eq_of_getMsbD_eq
  intro k hk
  have hne : ¬ (4 * x.toNat + k) / 4 = n.toNat := by
    intro e
    exact h (BitVec.eq_of_toNat_eq (by omega))
  rw [getMsbD_getField _ _ _ hk, getMsbD_getField _ _ _ hk, getMsbD_putField, if_neg hne]

end Sys2Proof.Machine
end

