-- ==== Sys2Proof/Laws/Ops.lean ====
section
/-! SUPPORT. For each shared operation, once, everything it can do. The proofs about instructions cite these and unfold no shared
operation. -/

namespace Sys2Proof.Machine

/-! ## How a step ends -/

theorem complete_eq (s : State) : complete s = .next s.completed := rfl

theorem redirect_eq (target : Word) (s : State) : redirect target s = .next (s.redirected target) := rfl

theorem fail_eq (o : StepOutcome) (s : State) : fail o s = .next (s.failed o) := rfl

theorem reportInvalid_eq (tag : Tag) (word : Word) (s : State) : reportInvalid tag word s = .next (s.reported tag word) := rfl

/-! ## Single loads and stores -/

/-- A load completes with the value converted, or fails before any register changes. -/
theorem loadGpr_cases (w : Width) (conv : DWord → Word) (rd : GprNum) (ea : Word) (base : Option GprNum) (s : State) :
    (aligned ea w = true ∧ s.atCall.port.answers .read ea.toNat w.bytes = true ∧
        loadGpr w conv rd ea base s =
          .next (((s.atCall.setGpr rd (conv (readBytes s.atCall.mem ea.toNat w.bytes))).updateBase base ea).completed)) ∨
      (aligned ea w = false ∧ loadGpr w conv rd ea base s = .next (s.failed (.alignment .data ea w))) ∨
      (aligned ea w = true ∧ s.atCall.port.answers .read ea.toNat w.bytes = false ∧
        loadGpr w conv rd ea base s = .next (s.atCall.failed (.memoryFailure .read ea w))) := by
  unfold loadGpr
  rcases memRead_cases s ea w with ⟨h, h1, h2⟩ | ⟨h, h1⟩ | ⟨h, h1, h2⟩ <;> simp only [h]
  · exact .inl ⟨h1, h2, rfl⟩
  · exact .inr (.inl ⟨h1, rfl⟩)
  · exact .inr (.inr ⟨h1, h2, rfl⟩)

/-- A floating-point load likewise. -/
theorem loadFpr_cases (w : Width) (conv : DWord → DWord) (frd : FprNum) (ea : Word) (base : Option GprNum) (s : State) :
    (aligned ea w = true ∧ s.atCall.port.answers .read ea.toNat w.bytes = true ∧
        loadFpr w conv frd ea base s =
          .next (((s.atCall.setFpr frd (conv (readBytes s.atCall.mem ea.toNat w.bytes))).updateBase base ea).completed)) ∨
      (aligned ea w = false ∧ loadFpr w conv frd ea base s = .next (s.failed (.alignment .data ea w))) ∨
      (aligned ea w = true ∧ s.atCall.port.answers .read ea.toNat w.bytes = false ∧
        loadFpr w conv frd ea base s = .next (s.atCall.failed (.memoryFailure .read ea w))) := by
  unfold loadFpr
  rcases memRead_cases s ea w with ⟨h, h1, h2⟩ | ⟨h, h1⟩ | ⟨h, h1, h2⟩ <;> simp only [h]
  · exact .inl ⟨h1, h2, rfl⟩
  · exact .inr (.inl ⟨h1, rfl⟩)
  · exact .inr (.inr ⟨h1, h2, rfl⟩)

/-- A store completes with the bytes in the image, or fails before the core changes anything. -/
theorem storeValue_cases (w : Width) (v : DWord) (ea : Word) (base : Option GprNum) (s : State) :
    (aligned ea w = true ∧ s.atCall.port.answers .write ea.toNat w.bytes = true ∧
        storeValue w v ea base s = .next (((s.atCall.putBytes ea w v).updateBase base ea).completed)) ∨
      (aligned ea w = false ∧ storeValue w v ea base s = .next (s.failed (.alignment .data ea w))) ∨
      (aligned ea w = true ∧ s.atCall.port.answers .write ea.toNat w.bytes = false ∧
        storeValue w v ea base s = .next (s.atCall.failed (.memoryFailure .write ea w))) := by
  unfold storeValue
  rcases memWrite_cases s ea w v with ⟨h, h1, h2⟩ | ⟨h, h1⟩ | ⟨h, h1, h2⟩ <;> simp only [h]
  · exact .inl ⟨h1, h2, rfl⟩
  · exact .inr (.inl ⟨h1, rfl⟩)
  · exact .inr (.inr ⟨h1, h2, rfl⟩)

/-! ## Sequences -/

/-- A sequence of loads completes with every value in, or fails before any register changes (R69 (a)); either way it has made some
number of calls. -/
theorem loadSeq_cases (w : Width) (as : List Word) (pack : List DWord → List Word) (r : GprNum) (s : State) :
    ∃ n, n ≤ as.length ∧
      ((∃ vs, State.readSeq w as s = (s.afterCalls n, .ok vs) ∧
          loadSeq w as pack r s = .next (((s.afterCalls n).setGprsFrom r (pack vs)).completed)) ∨
        ∃ o, State.readSeq w as s = (s.afterCalls n, .error o) ∧ loadSeq w as pack r s = .next ((s.afterCalls n).failed o)) := by
  obtain ⟨n, hn, h⟩ := readSeq_fields w as s
  refine ⟨n, hn, ?_⟩
  unfold loadSeq
  revert h
  rcases State.readSeq w as s with ⟨t, o | vs⟩ <;> intro h <;> simp only at h <;> subst h
  · exact .inr ⟨o, rfl, rfl⟩
  · exact .inl ⟨vs, rfl, rfl⟩

/-- A sequence of stores completes, or fails with the earlier writes kept; no register changes (R69 (b)). -/
theorem storeSeq_cases (w : Width) (l : List (Word × DWord)) (s : State) :
    ((State.writeSeq w l s).2 = none ∧ storeSeq w l s = .next (State.writeSeq w l s).1.completed) ∨
      ∃ o, (State.writeSeq w l s).2 = some o ∧ storeSeq w l s = .next ((State.writeSeq w l s).1.failed o) := by
  unfold storeSeq
  rcases State.writeSeq w l s with ⟨t, _ | o⟩
  · exact .inl ⟨rfl, rfl⟩
  · exact .inr ⟨o, rfl, rfl⟩

/-- A register that a sequence of writes from `r` on does not reach, or the value it gets. -/
theorem gpr_setGprsFrom (vs : List Word) (hvs : vs.length ≤ 32) (r : GprNum) (s : State) (j : Nat) (hj : j < 32) :
    (s.setGprsFrom r vs).gpr (r + BitVec.ofNat 5 j) =
      if h : j < vs.length then vs[j] else s.gpr (r + BitVec.ofNat 5 j) := by
  induction vs generalizing r s j with
  | nil => simp [State.setGprsFrom]
  | cons v vs ih =>
    simp only [List.length_cons] at hvs
    rw [State.setGprsFrom]
    have key : ∀ k : Nat, k < 32 → r + BitVec.ofNat 5 k = (r + 1) + BitVec.ofNat 5 ((k + 31) % 32) := by
      intro k hk
      apply BitVec.eq_of_toNat_eq
      have h1 : (1 : GprNum).toNat = 1 := rfl
      simp only [BitVec.toNat_add, BitVec.toNat_ofNat, h1]
      norm_num
      omega
    have step := ih (by omega) (r + 1) (s.setGpr r v) ((j + 31) % 32) (Nat.mod_lt _ (by decide))
    rw [← key j hj] at step
    rw [step]
    by_cases h0 : j = 0
    · subst h0
      have hn : ¬ (0 + 31) % 32 < vs.length := by omega
      rw [dif_neg hn, dif_pos (by simp)]
      simp
    · have e : (j + 31) % 32 = j - 1 := by omega
      have hne : r + BitVec.ofNat 5 j ≠ r := by
        intro h
        have := congrArg BitVec.toNat h
        simp only [BitVec.toNat_add, BitVec.toNat_ofNat] at this
        have := r.isLt
        omega
      simp only [e, gpr_setGpr, if_neg hne, List.length_cons]
      by_cases hlt : j < vs.length + 1
      · rw [dif_pos (by omega), dif_pos hlt]
        rw [List.getElem_cons, dif_neg h0]
      · rw [dif_neg (by omega), dif_neg hlt]

/-- A sequence of register writes changes the general registers only. -/
theorem setGprsFrom_fields (vs : List Word) (r : GprNum) (s : State) :
    s.setGprsFrom r vs = { s with gprs := (s.setGprsFrom r vs).gprs } := by
  induction vs generalizing r s with
  | nil => rfl
  | cons v vs ih => rw [State.setGprsFrom, ih]; rfl

/-! ## Alignment of what a PC can become -/

theorem aligned_word_iff (a : Word) : aligned a .word = true ↔ a.toNat % 4 = 0 := by
  exact decide_eq_true_iff

/-- Adding 4 keeps a multiple of 4, the wrap at the top included (R22, R23). -/
theorem aligned_add_four {a : Word} (h : aligned a .word = true) : aligned (a + 4) .word = true := by
  rw [aligned_word_iff] at h ⊢
  simp only [BitVec.toNat_add]
  have : (4 : Word).toNat = 4 := rfl
  omega

/-- Clearing the low two bits gives a multiple of 4 (R455). -/
theorem aligned_mask (a : Word) : aligned (a &&& 0xFFFFFFFC) .word = true := by
  rw [aligned_word_iff]
  have h4 : (4 : Nat) = 2 ^ 2 := rfl
  apply Nat.mod_eq_of_lt (b := 4) (a := (a &&& 0xFFFFFFFC).toNat % 4) (Nat.mod_lt _ (by decide)) |>.symm.trans
  rw [Nat.mod_mod, h4, ← BitVec.toNat_setWidth]
  have : (a &&& 0xFFFFFFFC).setWidth 2 = 0 := by
    apply BitVec.eq_of_getLsbD_eq
    intro i hi
    interval_cases i <;> simp
  rw [this]
  rfl

/-! ## FPSCR (R37) -/

/-- The bits of FPSCR other than VX and FEX are not touched by deriving. -/
theorem getMsbD_deriveFpscr (w : Word) (k : Nat) :
    (deriveFpscr w).getMsbD k = if k = 1 then fpscrFEX w else if k = 2 then fpscrVX w else w.getMsbD k := by
  unfold deriveFpscr
  rw [getMsbD_putBitAt, getMsbD_putBitAt]
  rfl

/-- VX in terms of the nine bits it sums up. -/
theorem fpscrVX_iff (w : Word) :
    fpscrVX w = (w.getMsbD 7 || w.getMsbD 8 || w.getMsbD 9 || w.getMsbD 10 || w.getMsbD 11 || w.getMsbD 12 ||
      w.getMsbD 21 || w.getMsbD 22 || w.getMsbD 23) := by
  rw [Bool.eq_iff_iff]
  have hm : ∀ k, (fpInvalidBits).getMsbD k = (decide (k = 7) || decide (k = 8) || decide (k = 9) || decide (k = 10) ||
      decide (k = 11) || decide (k = 12) || decide (k = 21) || decide (k = 22) || decide (k = 23)) := by
    intro k
    by_cases hk : k < 32
    · interval_cases k <;> decide
    · rw [BitVec.getMsbD_of_ge _ _ (by omega)]
      symm
      simp
      omega
  constructor
  · intro h
    by_contra hc
    simp only [Bool.or_eq_true, not_or] at hc
    obtain ⟨⟨⟨⟨⟨⟨⟨⟨h7, h8⟩, h9⟩, h10⟩, h11⟩, h12⟩, h21⟩, h22⟩, h23⟩ := hc
    have h0 : w &&& fpInvalidBits = 0 := by
      apply BitVec.eq_of_getMsbD_eq
      intro k hk
      rw [BitVec.getMsbD_and, hm k]
      by_cases e : k = 7 ∨ k = 8 ∨ k = 9 ∨ k = 10 ∨ k = 11 ∨ k = 12 ∨ k = 21 ∨ k = 22 ∨ k = 23
      · rcases e with rfl | rfl | rfl | rfl | rfl | rfl | rfl | rfl | rfl <;> simp_all
      · simp only [not_or] at e
        obtain ⟨e1, e2, e3, e4, e5, e6, e7, e8, e9⟩ := e
        simp [e1, e2, e3, e4, e5, e6, e7, e8, e9]
    rw [fpscrVX, h0] at h
    exact absurd h (by decide)
  · intro h
    unfold fpscrVX
    rw [bne_iff_ne]
    intro h0
    have hb : ∀ k, fpInvalidBits.getMsbD k = true → w.getMsbD k = false := by
      intro k hk
      have := congrArg (fun v => BitVec.getMsbD v k) h0
      simpa [BitVec.getMsbD_and, hk] using this
    simp only [Bool.or_eq_true] at h
    rcases h with ((((((((h | h) | h) | h) | h) | h) | h) | h) | h) <;> rw [hb _ (by rw [hm]; decide)] at h <;> cases h

/-- Deriving gives a word whose derived bits are right, whatever they were before. -/
theorem deriveFpscr_consistent (w : Word) : fpscrConsistent (deriveFpscr w) := by
  have hv : fpscrVX (deriveFpscr w) = fpscrVX w := by
    rw [fpscrVX_iff, fpscrVX_iff]
    simp [getMsbD_deriveFpscr]
  have hf : fpscrFEX (deriveFpscr w) = fpscrFEX w := by
    unfold fpscrFEX
    rw [hv]
    simp [getMsbD_deriveFpscr]
  exact ⟨by rw [getMsbD_deriveFpscr, hv]; rfl, by rw [getMsbD_deriveFpscr, hf]; rfl⟩

/-- Every commit leaves the derived bits right. -/
theorem commitFpscr_consistent (old flags : Word) (change : Word → Word) :
    fpscrConsistent (commitFpscr old flags change) :=
  deriveFpscr_consistent _

/-- Every masked replacement leaves the derived bits right. -/
theorem replaceFpscr_consistent (old m v : Word) : fpscrConsistent (replaceFpscr old m v) :=
  deriveFpscr_consistent _

/-! ## Branches -/

/-- What a conditional branch writes: CTR, LR and PC, nothing else. -/
theorem branchConditional_eq (target : Word) (bo : BitVec 5) (bi : CrBit) (lk : Bool) (s : State) :
    branchConditional target bo bi lk s =
      .next { s with
        ctr := s.branchCtr bo
        lr := if lk then s.pc + 4 else s.lr
        pc := if s.branchTaken bo bi then target else s.pc + 4
        outcome := some .ok } := by
  cases lk <;> rfl

/-- The displacements of the branches are multiples of 4. -/
theorem aligned_displacementI (li : BitVec 24) : (displacementI li).toNat % 4 = 0 := by
  have : (displacementI li).setWidth 2 = 0 := by
    apply BitVec.eq_of_getLsbD_eq
    intro i hi
    unfold displacementI
    rw [BitVec.getLsbD_setWidth, BitVec.getLsbD_signExtend, BitVec.getLsbD_append]
    interval_cases i <;> simp
  have h := congrArg BitVec.toNat this
  simpa [BitVec.toNat_setWidth] using h

theorem aligned_displacementB (bd : BitVec 14) : (displacementB bd).toNat % 4 = 0 := by
  have : (displacementB bd).setWidth 2 = 0 := by
    apply BitVec.eq_of_getLsbD_eq
    intro i hi
    unfold displacementB
    rw [BitVec.getLsbD_setWidth, BitVec.getLsbD_signExtend, BitVec.getLsbD_append]
    interval_cases i <;> simp
  have h := congrArg BitVec.toNat this
  simpa [BitVec.toNat_setWidth] using h

/-- A relative or absolute target is a multiple of 4 where PC is. -/
theorem aligned_branchTarget {s : State} {off : Word} (aa : Bool) (hs : aligned s.pc .word = true)
    (ho : off.toNat % 4 = 0) : aligned (s.branchTarget off aa) .word = true := by
  rw [aligned_word_iff] at hs ⊢
  cases aa
  · simp only [State.branchTarget, Bool.false_eq_true, if_false, BitVec.toNat_add]
    omega
  · simpa [State.branchTarget] using ho

/-! ## Special-purpose registers -/

/-- A write to the SPR file changes one named register or one cell. -/
theorem writeSpr_cases {s t : State} {n : SprNum} {v : Word} (h : s.writeSpr n v = some t) :
    t = { s with xer := v } ∨ t = { s with lr := v } ∨ t = { s with ctr := v } ∨ t = { s with srr0 := v } ∨
      t = { s with srr1 := v } ∨ (sprClass n = .cell ∧ t = s.setSprCell n v) := by
  unfold State.writeSpr at h
  split at h <;> try cases h
  · exact .inl rfl
  · exact .inr (.inl rfl)
  · exact .inr (.inr (.inl rfl))
  · exact .inr (.inr (.inr (.inl rfl)))
  · exact .inr (.inr (.inr (.inr (.inl rfl))))
  · next hc => exact .inr (.inr (.inr (.inr (.inr ⟨hc, rfl⟩))))

/-- A write to a cell keeps the SPR file's canonical form. -/
theorem setSprCell_wf {s : State} {n : SprNum} (h : SprFile.wf s.sprs) (hn : sprClass n = .cell) (v : Word) :
    SprFile.wf (s.setSprCell n v).sprs := by
  have hlt : n.toNat < 1024 := n.isLt
  refine ⟨sparseWf_set 0 h.1 hlt v, fun c hc => ?_⟩
  rcases mem_sparseSet 0 hc with e | hc
  · rw [e]
    simpa using hn
  · exact h.2 c hc

end Sys2Proof.Machine
end

