-- ==== Sys2Proof/Laws/Finish.lean ====
section
/-! SUPPORT. What each ending of an instruction does, once, in the words of Safety.lean: the fixed-point endings with their flags, the
compares, the CR bits, the FPSCR commit and the floating-point endings. -/

namespace Sys2Proof.Machine

/-! ## CR fields -/

/-- A field of CR replaced, and nothing else of CR. -/
theorem crField_of_putField {n : CrField} {c : BitVec 4} {s t : State} (h : t.cr = putField s.cr n c) :
    crField n (c.getMsbD 0) (c.getMsbD 1) (c.getMsbD 2) (c.getMsbD 3) s t := by
  have hn : n.toNat < 8 := n.isLt
  have e0 : (4 * n.toNat) / 4 = n.toNat := by omega
  have e1 : (4 * n.toNat + 1) / 4 = n.toNat := by omega
  have e2 : (4 * n.toNat + 2) / 4 = n.toNat := by omega
  have e3 : (4 * n.toNat + 3) / 4 = n.toNat := by omega
  have r0 : (4 * n.toNat) % 4 = 0 := by omega
  have r1 : (4 * n.toNat + 1) % 4 = 1 := by omega
  have r2 : (4 * n.toNat + 2) % 4 = 2 := by omega
  have r3 : (4 * n.toNat + 3) % 4 = 3 := by omega
  unfold crField
  rw [h]
  refine ⟨?_, ?_, ?_, ?_, fun k hk => ?_⟩ <;> rw [getMsbD_putField]
  · rw [if_pos e0, r0]
  · rw [if_pos e1, r1]
  · rw [if_pos e2, r2]
  · rw [if_pos e3, r3]
  · rw [if_neg hk]

/-- The four bits of a condition. -/
theorem conditionField_bits (lt gt so : Bool) :
    (conditionField lt gt so).getMsbD 0 = lt ∧ (conditionField lt gt so).getMsbD 1 = (!lt && gt) ∧
      (conditionField lt gt so).getMsbD 2 = (!lt && !gt) ∧ (conditionField lt gt so).getMsbD 3 = so := by
  cases lt <;> cases gt <;> cases so <;> decide

/-- The four bits of a signed comparison, over the integers. -/
theorem compareSigned_bits (a b : Word) (so : Bool) :
    (compareSigned a b so).getMsbD 0 = decide (a.toInt < b.toInt) ∧
      (compareSigned a b so).getMsbD 1 = decide (b.toInt < a.toInt) ∧
      (compareSigned a b so).getMsbD 2 = decide (a.toInt = b.toInt) ∧ (compareSigned a b so).getMsbD 3 = so := by
  obtain ⟨h0, h1, h2, h3⟩ := conditionField_bits (a.slt b) (b.slt a) so
  simp only [BitVec.slt_eq_decide] at h0 h1 h2 h3
  simp only [compareSigned, BitVec.slt_eq_decide]
  refine ⟨h0, h1.trans ?_, h2.trans ?_, h3⟩
  · by_cases h : a.toInt < b.toInt
    · have : ¬ b.toInt < a.toInt := by omega
      simp [h, this]
    · simp [h]
  · rw [Bool.eq_iff_iff]
    simp only [Bool.and_eq_true, Bool.not_eq_true', decide_eq_false_iff_not, decide_eq_true_eq]
    omega

/-- The four bits of an unsigned comparison, over the natural numbers. -/
theorem compareUnsigned_bits (a b : Word) (so : Bool) :
    (compareUnsigned a b so).getMsbD 0 = decide (a.toNat < b.toNat) ∧
      (compareUnsigned a b so).getMsbD 1 = decide (b.toNat < a.toNat) ∧
      (compareUnsigned a b so).getMsbD 2 = decide (a.toNat = b.toNat) ∧ (compareUnsigned a b so).getMsbD 3 = so := by
  obtain ⟨h0, h1, h2, h3⟩ := conditionField_bits (a.ult b) (b.ult a) so
  simp only [BitVec.ult_eq_decide] at h0 h1 h2 h3
  simp only [compareUnsigned, BitVec.ult_eq_decide]
  refine ⟨h0, h1.trans ?_, h2.trans ?_, h3⟩
  · by_cases h : a.toNat < b.toNat
    · have : ¬ b.toNat < a.toNat := by omega
      simp [h, this]
    · simp [h]
  · rw [Bool.eq_iff_iff]
    simp only [Bool.and_eq_true, Bool.not_eq_true', decide_eq_false_iff_not, decide_eq_true_eq]
    omega

/-! ## Fixed-point endings -/

/-- The record rule, for a state whose XER is final. -/
theorem cr0Rule_recordCr0 {rc : Bool} {v : Word} {s u t : State} (hcr : u.cr = s.cr) (ht : t.cr = (u.recordCr0 rc v).cr)
    (hx : t.xer = u.xer) : cr0Rule rc v s t := by
  unfold cr0Rule
  cases rc with
  | false => simpa [State.recordCr0, hcr] using ht
  | true =>
    have h : t.cr = putField s.cr 0 (compareSigned v 0 u.so) := by
      rw [ht, ← hcr]
      rfl
    obtain ⟨h0, h1, h2, h3⟩ := compareSigned_bits v 0 u.so
    have hc := crField_of_putField h
    rw [h0, h1, h2, h3] at hc
    have hz : (0 : Word).toInt = 0 := rfl
    rw [hz] at hc
    rw [if_pos rfl, hx]
    exact hc

/-- A bit of XER after the overflow rule. -/
theorem getMsbD_setOvIf (s : State) (oe ov : Bool) (k : Nat) :
    (s.setOvIf oe ov).xer.getMsbD k =
      if k = 0 then s.xer.getMsbD 0 || (oe && ov) else if k = 1 then (if oe then ov else s.xer.getMsbD 1)
      else s.xer.getMsbD k := by
  have h0 : (0 : CrBit).toNat = 0 := rfl
  have h1 : (1 : CrBit).toNat = 1 := rfl
  cases oe with
  | false =>
    rw [show (s.setOvIf false ov).xer = s.xer from rfl]
    split_ifs with e0 e1 <;> simp_all
  | true =>
    cases ov with
    | false =>
      rw [show (s.setOvIf true false).xer = putBitAt s.xer 1 false from rfl, getMsbD_putBitAt, h1]
      split_ifs with e0 e1 <;> simp_all
    | true =>
      rw [show (s.setOvIf true true).xer = putBitAt (putBitAt s.xer 1 true) 0 true from rfl, getMsbD_putBitAt,
        getMsbD_putBitAt, h0, h1]
      split_ifs with e0 e1 <;> simp_all

/-- XER after OV and CA as R162 and R163 write them. -/
theorem xerRule_of_eq {oe ov : Bool} {ca : Option Bool} {s t : State}
    (h : t.xer =
      (match ca with
       | none => s.setOvIf oe ov
       | some b => (s.setCa b).setOvIf oe ov).xer) : xerRule oe ov ca s t := by
  have h2 : (2 : CrBit).toNat = 2 := rfl
  unfold xerRule
  rw [h]
  cases ca with
  | none =>
    refine ⟨?_, ?_, ?_, fun k hk => ?_⟩ <;> simp only [getMsbD_setOvIf]
    · simp
    · simp
    · simp
    · rw [if_neg (by omega), if_neg (by omega)]
  | some b =>
    refine ⟨?_, ?_, ?_, fun k hk => ?_⟩ <;> simp only [getMsbD_setOvIf, setCa_xer, getMsbD_putBitAt, h2]
    · simp
    · simp
    · simp
    · rw [if_neg (by omega), if_neg (by omega), if_neg (by omega)]

/-- The register and the frame of the four fixed-point endings. -/
theorem onlyGpr_of_gprs {r : GprNum} {v : Word} {s t : State} (h : t.gprs = (s.setGpr r v).gprs) : onlyGpr r v s t := by
  have hg : ∀ x, t.gpr x = (s.setGpr r v).gpr x := fun x => by
    unfold State.gpr
    simp only [h]
  refine ⟨by rw [hg, gpr_setGpr_same], fun x hx => ?_⟩
  rw [hg, gpr_setGpr, if_neg hx]

/-- `finishResult`: the register, the record rule. -/
theorem finishResult_ends (r : GprNum) (v : Word) (rc : Bool) (s : State) :
    ∃ t, finishResult r v rc s = .next t ∧ fixedEnds r v false false none rc s t := by
  refine ⟨_, rfl, ⟨?_, fun _ => ?_⟩, ?_, ?_, ?_⟩
  · cases rc <;> rfl
  · cases rc <;> rfl
  · exact onlyGpr_of_gprs (by cases rc <;> rfl)
  · exact xerRule_of_eq (by cases rc <;> rfl)
  · exact cr0Rule_recordCr0 (u := s.setGpr r v) rfl rfl (by cases rc <;> rfl)

/-- `finishCarry`: the register, CA, the record rule. -/
theorem finishCarry_ends (r : GprNum) (v : Word) (ca rc : Bool) (s : State) :
    ∃ t, finishCarry r v ca rc s = .next t ∧ fixedEnds r v false false (some ca) rc s t := by
  refine ⟨_, rfl, ⟨?_, fun _ => ?_⟩, ?_, ?_, ?_⟩
  · cases rc <;> rfl
  · cases rc <;> rfl
  · exact onlyGpr_of_gprs (by cases rc <;> rfl)
  · exact xerRule_of_eq (by cases rc <;> rfl)
  · exact cr0Rule_recordCr0 (u := (s.setGpr r v).setCa ca) rfl rfl (by cases rc <;> rfl)

/-- `finishOverflow`: the register, OV and SO where OE is 1, the record rule. -/
theorem finishOverflow_ends (r : GprNum) (v : Word) (ov oe rc : Bool) (s : State) :
    ∃ t, finishOverflow r v ov oe rc s = .next t ∧ fixedEnds r v oe ov none rc s t := by
  refine ⟨_, rfl, ⟨?_, fun _ => ?_⟩, ?_, ?_, ?_⟩
  · cases rc <;> cases oe <;> rfl
  · cases rc <;> cases oe <;> rfl
  · exact onlyGpr_of_gprs (by cases rc <;> cases oe <;> rfl)
  · exact xerRule_of_eq (by cases rc <;> cases oe <;> rfl)
  · exact cr0Rule_recordCr0 (u := (s.setGpr r v).setOvIf oe ov) (by cases oe <;> rfl) rfl (by cases rc <;> rfl)

/-- `finishCarryOverflow`: the register, CA, OV and SO where OE is 1, the record rule. -/
theorem finishCarryOverflow_ends (r : GprNum) (v : Word) (ca ov oe rc : Bool) (s : State) :
    ∃ t, finishCarryOverflow r v ca ov oe rc s = .next t ∧ fixedEnds r v oe ov (some ca) rc s t := by
  refine ⟨_, rfl, ⟨?_, fun _ => ?_⟩, ?_, ?_, ?_⟩
  · cases rc <;> cases oe <;> rfl
  · cases rc <;> cases oe <;> rfl
  · exact onlyGpr_of_gprs (by cases rc <;> cases oe <;> rfl)
  · exact xerRule_of_eq (by cases rc <;> cases oe <;> rfl)
  · exact cr0Rule_recordCr0 (u := ((s.setGpr r v).setCa ca).setOvIf oe ov) (by cases oe <;> rfl) rfl (by cases rc <;> rfl)

/-- The end of a compare: one CR field. -/
theorem finishCompare_ends (n : CrField) (c : BitVec 4) (s : State) :
    ∃ t, finishCompare n c s = .next t ∧ crOnly s t ∧
      crField n (c.getMsbD 0) (c.getMsbD 1) (c.getMsbD 2) (c.getMsbD 3) s t :=
  ⟨_, rfl, ⟨rfl, fun _ => rfl⟩, crField_of_putField rfl⟩

/-- The end of a CR logical instruction: one CR bit. -/
theorem finishCrBit_ends (d : CrBit) (b : Bool) (s : State) :
    ∃ t, finishCrBit d b s = .next t ∧ crOnly s t ∧
      ∀ k, k < 32 → t.cr.getMsbD k = if k = d.toNat then b else s.cr.getMsbD k :=
  ⟨_, rfl, ⟨rfl, fun _ => rfl⟩, fun k _ => getMsbD_putBitAt s.cr d b k⟩

/-! ## The FPSCR commit (R349) -/

/-- A bit of the mask of the exception bits. -/
theorem getMsbD_fpExceptionBits (k : Nat) : fpExceptionBits.getMsbD k = isExceptionBit k := by
  by_cases hk : k < 32
  · interval_cases k <;> decide
  · rw [BitVec.getMsbD_of_ge _ _ (by omega)]
    unfold isExceptionBit
    simp
    omega

/-- No exception bit goes up exactly where the masked difference is zero. -/
theorem newException_iff (old new : Word) : newException old new ↔ new &&& ~~~ old &&& fpExceptionBits ≠ 0 := by
  constructor
  · rintro ⟨k, he, hn, ho⟩ h0
    have hk : k < 32 := by
      by_contra hge
      rw [BitVec.getMsbD_of_ge _ _ (by omega)] at hn
      cases hn
    have := congrArg (fun w => BitVec.getMsbD w k) h0
    simp [BitVec.getMsbD_and, BitVec.getMsbD_not, getMsbD_fpExceptionBits, he, hn, ho, hk] at this
  · intro h
    by_contra hc
    apply h
    apply BitVec.eq_of_getMsbD_eq
    intro k hk
    simp only [BitVec.getMsbD_and, BitVec.getMsbD_not, getMsbD_fpExceptionBits, hk, decide_true, Bool.true_and]
    cases hn : new.getMsbD k <;> cases ho : old.getMsbD k <;> cases he : isExceptionBit k <;> simp
    exact absurd ⟨k, he, hn, ho⟩ hc

/-- A bit of FPSCR after FX is raised. -/
theorem getMsbD_raiseFX (old new : Word) (k : Nat) :
    (raiseFX old new).getMsbD k =
      if k = 0 ∧ new &&& ~~~ old &&& fpExceptionBits ≠ 0 then true else new.getMsbD k := by
  have hx : ∀ k, fpFX.getMsbD k = decide (k = 0) := by
    intro k
    by_cases hk : k < 32
    · interval_cases k <;> decide
    · rw [BitVec.getMsbD_of_ge _ _ (by omega)]
      simp
      omega
  unfold raiseFX
  by_cases h : new &&& ~~~ old &&& fpExceptionBits = 0
  · simp [h]
  · rw [if_neg h, BitVec.getMsbD_or, hx]
    by_cases h0 : k = 0
    · rw [if_pos ⟨h0, h⟩]
      simp [h0]
    · simp [h0]

/-- A bit of FPSCR after FR and FI are put in. -/
theorem getMsbD_putFrFi (w : Word) (fr fi : Bool) (k : Nat) :
    (putFrFi w fr fi).getMsbD k = if k = 13 then fr else if k = 14 then fi else w.getMsbD k := by
  have h13 : (13 : CrBit).toNat = 13 := rfl
  have h14 : (14 : CrBit).toNat = 14 := rfl
  unfold putFrFi
  rw [getMsbD_putBitAt, getMsbD_putBitAt, h13, h14]
  split_ifs with a b <;> simp_all

/-- A bit of FPSCR after FPRF is put in. -/
theorem getMsbD_putFprf (w : Word) (c : BitVec 5) (k : Nat) :
    (putFprf w c).getMsbD k = if 15 ≤ k ∧ k ≤ 19 then c.getMsbD (k - 15) else w.getMsbD k := by
  unfold putFprf
  rw [BitVec.getMsbD_or, BitVec.getMsbD_and, BitVec.getMsbD_not]
  by_cases hk : k < 32
  · simp only [BitVec.getMsbD_eq_getLsbD, BitVec.getLsbD_shiftLeft, BitVec.getLsbD_setWidth]
    interval_cases k <;> simp
  · have : ¬ (15 ≤ k ∧ k ≤ 19) := by omega
    rw [if_neg this, BitVec.getMsbD_of_ge (c.setWidth 32 <<< 12) k (by omega), BitVec.getMsbD_of_ge w k (by omega)]
    simp

/-- A bit of FPSCR after FPCC is put in. -/
theorem getMsbD_putFpcc (w : Word) (c : BitVec 4) (k : Nat) :
    (putFpcc w c).getMsbD k = if 16 ≤ k ∧ k ≤ 19 then c.getMsbD (k - 16) else w.getMsbD k := by
  unfold putFpcc
  rw [BitVec.getMsbD_or, BitVec.getMsbD_and, BitVec.getMsbD_not]
  by_cases hk : k < 32
  · simp only [BitVec.getMsbD_eq_getLsbD, BitVec.getLsbD_shiftLeft, BitVec.getLsbD_setWidth]
    interval_cases k <;> simp
  · have : ¬ (16 ≤ k ∧ k ≤ 19) := by omega
    rw [if_neg this, BitVec.getMsbD_of_ge (c.setWidth 32 <<< 12) k (by omega), BitVec.getMsbD_of_ge w k (by omega)]
    simp

/-- Consistency and derivation say the same of a word. -/
theorem derivedBits_iff (w : Word) : derivedBits w ↔ fpscrConsistent w := by
  unfold derivedBits fpscrConsistent
  rw [fpscrVX_iff]
  constructor
  · rintro ⟨h2, h1⟩
    refine ⟨h2, ?_⟩
    rw [h1, fpscrFEX, fpscrVX_iff, ← h2]
  · rintro ⟨h2, h1⟩
    refine ⟨h2, ?_⟩
    rw [h1, fpscrFEX, fpscrVX_iff, ← h2]

/-- The commit, where the flags are exception bits and `change` writes the bits 13 to 19 only. -/
theorem commitFpscr_committed {old flags : Word} {change : Word → Word} {status : Nat → Bool}
    (hf : ∀ k, flags.getMsbD k = true → isExceptionBit k = true)
    (hc : ∀ w k, ¬ (13 ≤ k ∧ k ≤ 19) → (change w).getMsbD k = w.getMsbD k)
    (hs : ∀ k, 13 ≤ k → k ≤ 19 → (change (old ||| flags)).getMsbD k = status k) :
    committed old flags status (commitFpscr old flags change) := by
  have bit : ∀ k, k ≠ 0 → k ≠ 1 → k ≠ 2 →
      (commitFpscr old flags change).getMsbD k = (change (old ||| flags)).getMsbD k := by
    intro k h0 h1 h2
    unfold commitFpscr
    rw [getMsbD_deriveFpscr, if_neg h1, if_neg h2, getMsbD_raiseFX, if_neg (by simp [h0])]
  have flag0 : ∀ k, isExceptionBit k = false → flags.getMsbD k = false := by
    intro k hk
    cases h : flags.getMsbD k
    · rfl
    · rw [hf k h] at hk
      cases hk
  have exc : ∀ k, isExceptionBit k = true → k ≠ 0 ∧ k ≠ 1 ∧ k ≠ 2 ∧ ¬ (13 ≤ k ∧ k ≤ 19) := by
    intro k hk
    unfold isExceptionBit at hk
    simp only [Bool.or_eq_true, Bool.and_eq_true, decide_eq_true_eq] at hk
    omega
  have hexc : ∀ k, isExceptionBit k = true →
      (commitFpscr old flags change).getMsbD k = (old.getMsbD k || flags.getMsbD k) := by
    intro k hk
    obtain ⟨h0, h1, h2, h3⟩ := exc k hk
    rw [bit k h0 h1 h2, hc _ _ h3, BitVec.getMsbD_or]
  have hch : ∀ k, isExceptionBit k = true →
      (change (old ||| flags)).getMsbD k = (commitFpscr old flags change).getMsbD k := by
    intro k hk
    obtain ⟨h0, h1, h2, -⟩ := exc k hk
    exact (bit k h0 h1 h2).symm
  have hnew : newException old (commitFpscr old flags change) ↔
      change (old ||| flags) &&& ~~~ old &&& fpExceptionBits ≠ 0 := by
    rw [← newException_iff]
    constructor <;> rintro ⟨k, he, hn, ho⟩
    · exact ⟨k, he, by rw [hch k he]; exact hn, ho⟩
    · exact ⟨k, he, by rw [← hch k he]; exact hn, ho⟩
  have h0 : (commitFpscr old flags change).getMsbD 0 =
      if change (old ||| flags) &&& ~~~ old &&& fpExceptionBits ≠ 0 then true else old.getMsbD 0 := by
    unfold commitFpscr
    rw [getMsbD_deriveFpscr, if_neg (by decide), if_neg (by decide), getMsbD_raiseFX]
    by_cases h : change (old ||| flags) &&& ~~~ old &&& fpExceptionBits = 0
    · rw [if_neg (by simp [h]), if_neg (by simp [h]), hc _ _ (by decide), BitVec.getMsbD_or,
        flag0 0 (by decide), Bool.or_false]
    · rw [if_pos ⟨rfl, h⟩, if_pos h]
  refine ⟨hexc, fun k h13 h19 => ?_, fun k hk => ?_, fun h => ?_, fun h => ?_, ?_⟩
  · rw [bit k (by omega) (by omega) (by omega), hs k h13 h19]
  · rw [bit k (by omega) (by omega) (by omega), hc _ _ (by omega), BitVec.getMsbD_or, flag0 k, Bool.or_false]
    unfold isExceptionBit
    simp only [Bool.or_eq_false_iff, Bool.and_eq_false_iff, decide_eq_false_iff_not]
    omega
  · rw [h0, if_pos (hnew.mp h)]
  · rw [h0, if_neg (fun hne => h (hnew.mpr hne))]
  · exact (derivedBits_iff _).mpr (commitFpscr_consistent _ _ _)

/-! ## Floating-point endings (R349, R350) -/

/-- The record rule of the floating-point instructions, for a state whose FPSCR is final. -/
theorem floatRecord_recordFp {rc : Bool} {s u t : State} (hcr : u.cr = s.cr) (hp : u.params = s.params)
    (ht : t.cr = (u.recordFp rc).cr) (hf : t.fpscr = u.fpscr) : floatRecord rc s t := by
  unfold floatRecord
  cases rc with
  | false => simpa [State.recordFp, hcr] using ht
  | true =>
    have h : t.cr = putField s.cr (BitVec.ofNat 3 s.params.fpRecordField.val) (getField t.fpscr 0) := by
      rw [ht, hf, ← hcr, ← hp]
      rfl
    have hc := crField_of_putField h
    have h0 : (0 : CrField).toNat = 0 := rfl
    rw [getMsbD_getField _ _ _ (by decide), getMsbD_getField _ _ _ (by decide), getMsbD_getField _ _ _ (by decide),
      getMsbD_getField _ _ _ (by decide), h0] at hc
    rw [if_pos rfl]
    exact hc

/-- The floating-point register of the endings. -/
theorem onlyFpr_of_fprs {r : FprNum} {v : DWord} {s t : State} (h : t.fprs = (s.setFpr r v).fprs) : onlyFpr r v s t := by
  have hg : ∀ x, t.fpr x = (s.setFpr r v).fpr x := fun x => by
    unfold State.fpr
    simp only [h]
  refine ⟨by rw [hg, fpr_setFpr_same], fun x hx => ?_⟩
  rw [hg, fpr_setFpr, if_neg hx]

/-- `finishFp`: the register, FPSCR as given, the record rule. -/
theorem finishFp_ends (r : FprNum) (v : DWord) (w : Word) (rc : Bool) (s : State) :
    ∃ t, finishFp r v w rc s = .next t ∧ floatOnly s t ∧ onlyFpr r v s t ∧ t.fpscr = w ∧ floatRecord rc s t := by
  refine ⟨_, rfl, ⟨?_, fun _ => ?_⟩, ?_, ?_, ?_⟩
  · cases rc <;> rfl
  · cases rc <;> rfl
  · exact onlyFpr_of_fprs (by cases rc <;> rfl)
  · cases rc <;> rfl
  · exact floatRecord_recordFp (u := (s.setFpr r v).setFpscr w) rfl rfl (by cases rc <;> rfl) (by cases rc <;> rfl)

/-- `finishFpMove`: the register, the record rule, FPSCR untouched. -/
theorem finishFpMove_ends (r : FprNum) (v : DWord) (rc : Bool) (s : State) :
    ∃ t, finishFpMove r v rc s = .next t ∧ floatOnly s t ∧ onlyFpr r v s t ∧ t.fpscr = s.fpscr ∧ floatRecord rc s t := by
  refine ⟨_, rfl, ⟨?_, fun _ => ?_⟩, ?_, ?_, ?_⟩
  · cases rc <;> rfl
  · cases rc <;> rfl
  · exact onlyFpr_of_fprs (by cases rc <;> rfl)
  · cases rc <;> rfl
  · exact floatRecord_recordFp (u := s.setFpr r v) rfl rfl (by cases rc <;> rfl) (by cases rc <;> rfl)

/-- `finishFpscr`: FPSCR as given, the record rule. -/
theorem finishFpscr_ends (w : Word) (rc : Bool) (s : State) :
    ∃ t, finishFpscr w rc s = .next t ∧ floatOnly s t ∧ (∀ x, t.fpr x = s.fpr x) ∧ t.fpscr = w ∧ floatRecord rc s t := by
  refine ⟨_, rfl, ⟨?_, fun _ => ?_⟩, fun _ => ?_, ?_, ?_⟩
  · cases rc <;> rfl
  · cases rc <;> rfl
  · cases rc <;> rfl
  · cases rc <;> rfl
  · exact floatRecord_recordFp (u := s.setFpscr w) rfl rfl (by cases rc <;> rfl) (by cases rc <;> rfl)

/-- `finishArith`: the result, its flags, FR, FI and class committed, the record rule. -/
theorem finishArith_ends (fmt : FpFormat) (frd : FprNum) (r : FpResult) (rc : Bool) (s : State)
    (hf : ∀ k, r.flags.getMsbD k = true → isExceptionBit k = true) :
    ∃ t, finishArith fmt frd r rc s = .next t ∧ floatOnly s t ∧ onlyFpr frd r.value s t ∧
      committed s.fpscr r.flags (fun k =>
        if k = 13 then r.fr else if k = 14 then r.fi else (fprfOf fmt r.value).getMsbD (k - 15)) t.fpscr ∧
      floatRecord rc s t := by
  obtain ⟨t, h, h1, h2, h3, h4⟩ := finishFp_ends frd r.value
    (commitFpscr s.fpscr r.flags fun w => putFprf (putFrFi w r.fr r.fi) (fprfOf fmt r.value)) rc s
  refine ⟨t, h, h1, h2, ?_, h4⟩
  rw [h3]
  refine commitFpscr_committed hf (fun w k hk => ?_) (fun k h13 h19 => ?_)
  · rw [getMsbD_putFprf, getMsbD_putFrFi, if_neg (by omega), if_neg (by omega), if_neg (by omega)]
  · rw [getMsbD_putFprf, getMsbD_putFrFi]
    by_cases e : 15 ≤ k ∧ k ≤ 19
    · rw [if_pos e, if_neg (by omega), if_neg (by omega)]
    · rw [if_neg e]
      by_cases e13 : k = 13
      · rw [if_pos e13, if_pos e13]
      · have e14 : k = 14 := by omega
        rw [if_neg e13, if_neg e13, if_pos e14, if_pos e14]

/-- A bit of FPSCR after a masked replacement: bits 1 and 2 derived, the others from the source where the mask selects them. -/
theorem getMsbD_replaceFpscr (old m v : Word) (k : Nat) (h1 : k ≠ 1) (h2 : k ≠ 2) :
    (replaceFpscr old m v).getMsbD k = if m.getMsbD k then v.getMsbD k else old.getMsbD k := by
  have hm : ∀ k, (0x9FFFFFFF : Word).getMsbD k = (decide (k < 32) && !decide (k = 1) && !decide (k = 2)) := by
    intro k
    by_cases hk : k < 32
    · interval_cases k <;> decide
    · rw [BitVec.getMsbD_of_ge _ _ (by omega)]
      simp [hk]
  unfold replaceFpscr
  rw [getMsbD_deriveFpscr, if_neg h1, if_neg h2]
  simp only [BitVec.getMsbD_or, BitVec.getMsbD_and, BitVec.getMsbD_not, hm, h1, h2, decide_false, Bool.not_false, Bool.and_true]
  by_cases hk : k < 32
  · cases m.getMsbD k <;> simp [hk]
  · rw [BitVec.getMsbD_of_ge old _ (by omega), BitVec.getMsbD_of_ge v _ (by omega)]
    simp

end Sys2Proof.Machine
end

