-- ==== Sys2Proof/Laws/PerInstr.lean ====
section
/-! SUPPORT. The statements made per instruction, and one lemma per constructor. `FixedBits`: the word of an instruction has the
fixed bits of its row of spec/opcode_table.json, whatever its operands hold (30_encoding.md R102). -/

namespace Sys2Proof

/-- The encoded word lies in the instruction's row: `word & mask = match`. -/
def Laws.FixedBits.Statement (i : Instr) : Prop := i.row.selects (encode i) = true

/-- The statement as an equation of words, ready for the mask to be pushed over the fields. -/
theorem Laws.FixedBits.of_eq {i : Instr} (h : encode i &&& i.row.mask = i.row.value) : Laws.FixedBits.Statement i := by
  unfold Laws.FixedBits.Statement OpcodeRow.selects
  rw [h]
  exact beq_self_eq_true _

theorem Laws.FixedBits.twi (tcond : BitVec 5) (ra : GprNum) (simm : BitVec 16) : Laws.FixedBits.Statement (.twi tcond ra simm) := by
  refine Laws.FixedBits.of_eq ?_
  delta encode Instr.row
  simp (disch := decide) only [or_and_mask, put_and_mask]
  decide

theorem Laws.FixedBits.mulli (rd : GprNum) (ra : GprNum) (simm : BitVec 16) : Laws.FixedBits.Statement (.mulli rd ra simm) := by
  refine Laws.FixedBits.of_eq ?_
  delta encode Instr.row
  simp (disch := decide) only [or_and_mask, put_and_mask]
  decide

theorem Laws.FixedBits.subfic (rd : GprNum) (ra : GprNum) (simm : BitVec 16) : Laws.FixedBits.Statement (.subfic rd ra simm) := by
  refine Laws.FixedBits.of_eq ?_
  delta encode Instr.row
  simp (disch := decide) only [or_and_mask, put_and_mask]
  decide

theorem Laws.FixedBits.cmpli (crfD : CrField) (z9 : BitVec 1) (l : Bool) (ra : GprNum) (uimm : BitVec 16) : Laws.FixedBits.Statement (.cmpli crfD z9 l ra uimm) := by
  refine Laws.FixedBits.of_eq ?_
  delta encode Instr.row
  simp (disch := decide) only [or_and_mask, put_and_mask, putBit_and_mask]
  decide

theorem Laws.FixedBits.cmpi (crfD : CrField) (z9 : BitVec 1) (l : Bool) (ra : GprNum) (simm : BitVec 16) : Laws.FixedBits.Statement (.cmpi crfD z9 l ra simm) := by
  refine Laws.FixedBits.of_eq ?_
  delta encode Instr.row
  simp (disch := decide) only [or_and_mask, put_and_mask, putBit_and_mask]
  decide

theorem Laws.FixedBits.addic (rd : GprNum) (ra : GprNum) (simm : BitVec 16) : Laws.FixedBits.Statement (.addic rd ra simm) := by
  refine Laws.FixedBits.of_eq ?_
  delta encode Instr.row
  simp (disch := decide) only [or_and_mask, put_and_mask]
  decide

theorem Laws.FixedBits.addicDot (rd : GprNum) (ra : GprNum) (simm : BitVec 16) : Laws.FixedBits.Statement (.addicDot rd ra simm) := by
  refine Laws.FixedBits.of_eq ?_
  delta encode Instr.row
  simp (disch := decide) only [or_and_mask, put_and_mask]
  decide

theorem Laws.FixedBits.addi (rd : GprNum) (ra : GprNum) (simm : BitVec 16) : Laws.FixedBits.Statement (.addi rd ra simm) := by
  refine Laws.FixedBits.of_eq ?_
  delta encode Instr.row
  simp (disch := decide) only [or_and_mask, put_and_mask]
  decide

theorem Laws.FixedBits.addis (rd : GprNum) (ra : GprNum) (simm : BitVec 16) : Laws.FixedBits.Statement (.addis rd ra simm) := by
  refine Laws.FixedBits.of_eq ?_
  delta encode Instr.row
  simp (disch := decide) only [or_and_mask, put_and_mask]
  decide

theorem Laws.FixedBits.bc (bo : BitVec 5) (bi : CrBit) (bd : BitVec 14) (aa : Bool) (lk : Bool) : Laws.FixedBits.Statement (.bc bo bi bd aa lk) := by
  refine Laws.FixedBits.of_eq ?_
  delta encode Instr.row
  simp (disch := decide) only [or_and_mask, put_and_mask, putBit_and_mask]
  decide

theorem Laws.FixedBits.sc (z6 : BitVec 26) : Laws.FixedBits.Statement (.sc z6) := by
  refine Laws.FixedBits.of_eq ?_
  delta encode Instr.row
  simp (disch := decide) only [or_and_mask, put_and_mask]
  decide

theorem Laws.FixedBits.b (li : BitVec 24) (aa : Bool) (lk : Bool) : Laws.FixedBits.Statement (.b li aa lk) := by
  refine Laws.FixedBits.of_eq ?_
  delta encode Instr.row
  simp (disch := decide) only [or_and_mask, put_and_mask, putBit_and_mask]
  decide

theorem Laws.FixedBits.mcrf (crfD : CrField) (z9 : BitVec 2) (crfS : CrField) (z14 : BitVec 2) (z16 : BitVec 5) (z31 : BitVec 1) : Laws.FixedBits.Statement (.mcrf crfD z9 crfS z14 z16 z31) := by
  refine Laws.FixedBits.of_eq ?_
  delta encode Instr.row
  simp (disch := decide) only [or_and_mask, put_and_mask]
  decide

theorem Laws.FixedBits.bclr (bo : BitVec 5) (bi : CrBit) (z16 : BitVec 5) (lk : Bool) : Laws.FixedBits.Statement (.bclr bo bi z16 lk) := by
  refine Laws.FixedBits.of_eq ?_
  delta encode Instr.row
  simp (disch := decide) only [or_and_mask, put_and_mask, putBit_and_mask]
  decide

theorem Laws.FixedBits.crnor (crbD : CrBit) (crbA : CrBit) (crbB : CrBit) (z31 : BitVec 1) : Laws.FixedBits.Statement (.crnor crbD crbA crbB z31) := by
  refine Laws.FixedBits.of_eq ?_
  delta encode Instr.row
  simp (disch := decide) only [or_and_mask, put_and_mask]
  decide

theorem Laws.FixedBits.rfi (z6 : BitVec 5) (z11 : BitVec 5) (z16 : BitVec 5) (z31 : BitVec 1) : Laws.FixedBits.Statement (.rfi z6 z11 z16 z31) := by
  refine Laws.FixedBits.of_eq ?_
  delta encode Instr.row
  simp (disch := decide) only [or_and_mask, put_and_mask]
  decide

theorem Laws.FixedBits.crandc (crbD : CrBit) (crbA : CrBit) (crbB : CrBit) (z31 : BitVec 1) : Laws.FixedBits.Statement (.crandc crbD crbA crbB z31) := by
  refine Laws.FixedBits.of_eq ?_
  delta encode Instr.row
  simp (disch := decide) only [or_and_mask, put_and_mask]
  decide

theorem Laws.FixedBits.isync (z6 : BitVec 5) (z11 : BitVec 5) (z16 : BitVec 5) (z31 : BitVec 1) : Laws.FixedBits.Statement (.isync z6 z11 z16 z31) := by
  refine Laws.FixedBits.of_eq ?_
  delta encode Instr.row
  simp (disch := decide) only [or_and_mask, put_and_mask]
  decide

theorem Laws.FixedBits.crxor (crbD : CrBit) (crbA : CrBit) (crbB : CrBit) (z31 : BitVec 1) : Laws.FixedBits.Statement (.crxor crbD crbA crbB z31) := by
  refine Laws.FixedBits.of_eq ?_
  delta encode Instr.row
  simp (disch := decide) only [or_and_mask, put_and_mask]
  decide

theorem Laws.FixedBits.crnand (crbD : CrBit) (crbA : CrBit) (crbB : CrBit) (z31 : BitVec 1) : Laws.FixedBits.Statement (.crnand crbD crbA crbB z31) := by
  refine Laws.FixedBits.of_eq ?_
  delta encode Instr.row
  simp (disch := decide) only [or_and_mask, put_and_mask]
  decide

theorem Laws.FixedBits.crand (crbD : CrBit) (crbA : CrBit) (crbB : CrBit) (z31 : BitVec 1) : Laws.FixedBits.Statement (.crand crbD crbA crbB z31) := by
  refine Laws.FixedBits.of_eq ?_
  delta encode Instr.row
  simp (disch := decide) only [or_and_mask, put_and_mask]
  decide

theorem Laws.FixedBits.creqv (crbD : CrBit) (crbA : CrBit) (crbB : CrBit) (z31 : BitVec 1) : Laws.FixedBits.Statement (.creqv crbD crbA crbB z31) := by
  refine Laws.FixedBits.of_eq ?_
  delta encode Instr.row
  simp (disch := decide) only [or_and_mask, put_and_mask]
  decide

theorem Laws.FixedBits.crorc (crbD : CrBit) (crbA : CrBit) (crbB : CrBit) (z31 : BitVec 1) : Laws.FixedBits.Statement (.crorc crbD crbA crbB z31) := by
  refine Laws.FixedBits.of_eq ?_
  delta encode Instr.row
  simp (disch := decide) only [or_and_mask, put_and_mask]
  decide

theorem Laws.FixedBits.cror (crbD : CrBit) (crbA : CrBit) (crbB : CrBit) (z31 : BitVec 1) : Laws.FixedBits.Statement (.cror crbD crbA crbB z31) := by
  refine Laws.FixedBits.of_eq ?_
  delta encode Instr.row
  simp (disch := decide) only [or_and_mask, put_and_mask]
  decide

theorem Laws.FixedBits.bcctr (bo : BitVec 5) (bi : CrBit) (z16 : BitVec 5) (lk : Bool) : Laws.FixedBits.Statement (.bcctr bo bi z16 lk) := by
  refine Laws.FixedBits.of_eq ?_
  delta encode Instr.row
  simp (disch := decide) only [or_and_mask, put_and_mask, putBit_and_mask]
  decide

theorem Laws.FixedBits.rlwimi (rs : GprNum) (ra : GprNum) (sh : BitVec 5) (mb : BitVec 5) (me : BitVec 5) (rc : Bool) : Laws.FixedBits.Statement (.rlwimi rs ra sh mb me rc) := by
  refine Laws.FixedBits.of_eq ?_
  delta encode Instr.row
  simp (disch := decide) only [or_and_mask, put_and_mask, putBit_and_mask]
  decide

theorem Laws.FixedBits.rlwinm (rs : GprNum) (ra : GprNum) (sh : BitVec 5) (mb : BitVec 5) (me : BitVec 5) (rc : Bool) : Laws.FixedBits.Statement (.rlwinm rs ra sh mb me rc) := by
  refine Laws.FixedBits.of_eq ?_
  delta encode Instr.row
  simp (disch := decide) only [or_and_mask, put_and_mask, putBit_and_mask]
  decide

theorem Laws.FixedBits.rlwnm (rs : GprNum) (ra : GprNum) (rb : GprNum) (mb : BitVec 5) (me : BitVec 5) (rc : Bool) : Laws.FixedBits.Statement (.rlwnm rs ra rb mb me rc) := by
  refine Laws.FixedBits.of_eq ?_
  delta encode Instr.row
  simp (disch := decide) only [or_and_mask, put_and_mask, putBit_and_mask]
  decide

theorem Laws.FixedBits.ori (rs : GprNum) (ra : GprNum) (uimm : BitVec 16) : Laws.FixedBits.Statement (.ori rs ra uimm) := by
  refine Laws.FixedBits.of_eq ?_
  delta encode Instr.row
  simp (disch := decide) only [or_and_mask, put_and_mask]
  decide

theorem Laws.FixedBits.oris (rs : GprNum) (ra : GprNum) (uimm : BitVec 16) : Laws.FixedBits.Statement (.oris rs ra uimm) := by
  refine Laws.FixedBits.of_eq ?_
  delta encode Instr.row
  simp (disch := decide) only [or_and_mask, put_and_mask]
  decide

theorem Laws.FixedBits.xori (rs : GprNum) (ra : GprNum) (uimm : BitVec 16) : Laws.FixedBits.Statement (.xori rs ra uimm) := by
  refine Laws.FixedBits.of_eq ?_
  delta encode Instr.row
  simp (disch := decide) only [or_and_mask, put_and_mask]
  decide

theorem Laws.FixedBits.xoris (rs : GprNum) (ra : GprNum) (uimm : BitVec 16) : Laws.FixedBits.Statement (.xoris rs ra uimm) := by
  refine Laws.FixedBits.of_eq ?_
  delta encode Instr.row
  simp (disch := decide) only [or_and_mask, put_and_mask]
  decide

theorem Laws.FixedBits.andiDot (rs : GprNum) (ra : GprNum) (uimm : BitVec 16) : Laws.FixedBits.Statement (.andiDot rs ra uimm) := by
  refine Laws.FixedBits.of_eq ?_
  delta encode Instr.row
  simp (disch := decide) only [or_and_mask, put_and_mask]
  decide

theorem Laws.FixedBits.andisDot (rs : GprNum) (ra : GprNum) (uimm : BitVec 16) : Laws.FixedBits.Statement (.andisDot rs ra uimm) := by
  refine Laws.FixedBits.of_eq ?_
  delta encode Instr.row
  simp (disch := decide) only [or_and_mask, put_and_mask]
  decide

theorem Laws.FixedBits.cmp (crfD : CrField) (z9 : BitVec 1) (l : Bool) (ra : GprNum) (rb : GprNum) (z31 : BitVec 1) : Laws.FixedBits.Statement (.cmp crfD z9 l ra rb z31) := by
  refine Laws.FixedBits.of_eq ?_
  delta encode Instr.row
  simp (disch := decide) only [or_and_mask, put_and_mask, putBit_and_mask]
  decide

theorem Laws.FixedBits.tw (tcond : BitVec 5) (ra : GprNum) (rb : GprNum) (z31 : BitVec 1) : Laws.FixedBits.Statement (.tw tcond ra rb z31) := by
  refine Laws.FixedBits.of_eq ?_
  delta encode Instr.row
  simp (disch := decide) only [or_and_mask, put_and_mask]
  decide

theorem Laws.FixedBits.subfc (rd : GprNum) (ra : GprNum) (rb : GprNum) (oe : Bool) (rc : Bool) : Laws.FixedBits.Statement (.subfc rd ra rb oe rc) := by
  refine Laws.FixedBits.of_eq ?_
  delta encode Instr.row
  cases oe <;>
  simp (disch := decide) only [or_and_mask, put_and_mask, putBit_and_mask] <;> decide

theorem Laws.FixedBits.addc (rd : GprNum) (ra : GprNum) (rb : GprNum) (oe : Bool) (rc : Bool) : Laws.FixedBits.Statement (.addc rd ra rb oe rc) := by
  refine Laws.FixedBits.of_eq ?_
  delta encode Instr.row
  cases oe <;>
  simp (disch := decide) only [or_and_mask, put_and_mask, putBit_and_mask] <;> decide

theorem Laws.FixedBits.mulhwu (rd : GprNum) (ra : GprNum) (rb : GprNum) (rc : Bool) : Laws.FixedBits.Statement (.mulhwu rd ra rb rc) := by
  refine Laws.FixedBits.of_eq ?_
  delta encode Instr.row
  simp (disch := decide) only [or_and_mask, put_and_mask, putBit_and_mask]
  decide

theorem Laws.FixedBits.mfcr (rd : GprNum) (z11 : BitVec 5) (z16 : BitVec 5) (z31 : BitVec 1) : Laws.FixedBits.Statement (.mfcr rd z11 z16 z31) := by
  refine Laws.FixedBits.of_eq ?_
  delta encode Instr.row
  simp (disch := decide) only [or_and_mask, put_and_mask]
  decide

theorem Laws.FixedBits.lwarx (rd : GprNum) (ra : GprNum) (rb : GprNum) (z31 : BitVec 1) : Laws.FixedBits.Statement (.lwarx rd ra rb z31) := by
  refine Laws.FixedBits.of_eq ?_
  delta encode Instr.row
  simp (disch := decide) only [or_and_mask, put_and_mask]
  decide

theorem Laws.FixedBits.lwzx (rd : GprNum) (ra : GprNum) (rb : GprNum) (z31 : BitVec 1) : Laws.FixedBits.Statement (.lwzx rd ra rb z31) := by
  refine Laws.FixedBits.of_eq ?_
  delta encode Instr.row
  simp (disch := decide) only [or_and_mask, put_and_mask]
  decide

theorem Laws.FixedBits.slw (rs : GprNum) (ra : GprNum) (rb : GprNum) (rc : Bool) : Laws.FixedBits.Statement (.slw rs ra rb rc) := by
  refine Laws.FixedBits.of_eq ?_
  delta encode Instr.row
  simp (disch := decide) only [or_and_mask, put_and_mask, putBit_and_mask]
  decide

theorem Laws.FixedBits.cntlzw (rs : GprNum) (ra : GprNum) (z16 : BitVec 5) (rc : Bool) : Laws.FixedBits.Statement (.cntlzw rs ra z16 rc) := by
  refine Laws.FixedBits.of_eq ?_
  delta encode Instr.row
  simp (disch := decide) only [or_and_mask, put_and_mask, putBit_and_mask]
  decide

theorem Laws.FixedBits.and (rs : GprNum) (ra : GprNum) (rb : GprNum) (rc : Bool) : Laws.FixedBits.Statement (.and rs ra rb rc) := by
  refine Laws.FixedBits.of_eq ?_
  delta encode Instr.row
  simp (disch := decide) only [or_and_mask, put_and_mask, putBit_and_mask]
  decide

theorem Laws.FixedBits.cmpl (crfD : CrField) (z9 : BitVec 1) (l : Bool) (ra : GprNum) (rb : GprNum) (z31 : BitVec 1) : Laws.FixedBits.Statement (.cmpl crfD z9 l ra rb z31) := by
  refine Laws.FixedBits.of_eq ?_
  delta encode Instr.row
  simp (disch := decide) only [or_and_mask, put_and_mask, putBit_and_mask]
  decide

theorem Laws.FixedBits.subf (rd : GprNum) (ra : GprNum) (rb : GprNum) (oe : Bool) (rc : Bool) : Laws.FixedBits.Statement (.subf rd ra rb oe rc) := by
  refine Laws.FixedBits.of_eq ?_
  delta encode Instr.row
  cases oe <;>
  simp (disch := decide) only [or_and_mask, put_and_mask, putBit_and_mask] <;> decide

theorem Laws.FixedBits.dcbst (z6 : BitVec 5) (ra : GprNum) (rb : GprNum) (z31 : BitVec 1) : Laws.FixedBits.Statement (.dcbst z6 ra rb z31) := by
  refine Laws.FixedBits.of_eq ?_
  delta encode Instr.row
  simp (disch := decide) only [or_and_mask, put_and_mask]
  decide

theorem Laws.FixedBits.lwzux (rd : GprNum) (ra : GprNum) (rb : GprNum) (z31 : BitVec 1) : Laws.FixedBits.Statement (.lwzux rd ra rb z31) := by
  refine Laws.FixedBits.of_eq ?_
  delta encode Instr.row
  simp (disch := decide) only [or_and_mask, put_and_mask]
  decide

theorem Laws.FixedBits.andc (rs : GprNum) (ra : GprNum) (rb : GprNum) (rc : Bool) : Laws.FixedBits.Statement (.andc rs ra rb rc) := by
  refine Laws.FixedBits.of_eq ?_
  delta encode Instr.row
  simp (disch := decide) only [or_and_mask, put_and_mask, putBit_and_mask]
  decide

theorem Laws.FixedBits.mulhw (rd : GprNum) (ra : GprNum) (rb : GprNum) (rc : Bool) : Laws.FixedBits.Statement (.mulhw rd ra rb rc) := by
  refine Laws.FixedBits.of_eq ?_
  delta encode Instr.row
  simp (disch := decide) only [or_and_mask, put_and_mask, putBit_and_mask]
  decide

theorem Laws.FixedBits.mfmsr (rd : GprNum) (z11 : BitVec 5) (z16 : BitVec 5) (z31 : BitVec 1) : Laws.FixedBits.Statement (.mfmsr rd z11 z16 z31) := by
  refine Laws.FixedBits.of_eq ?_
  delta encode Instr.row
  simp (disch := decide) only [or_and_mask, put_and_mask]
  decide

theorem Laws.FixedBits.dcbf (z6 : BitVec 5) (ra : GprNum) (rb : GprNum) (z31 : BitVec 1) : Laws.FixedBits.Statement (.dcbf z6 ra rb z31) := by
  refine Laws.FixedBits.of_eq ?_
  delta encode Instr.row
  simp (disch := decide) only [or_and_mask, put_and_mask]
  decide

theorem Laws.FixedBits.lbzx (rd : GprNum) (ra : GprNum) (rb : GprNum) (z31 : BitVec 1) : Laws.FixedBits.Statement (.lbzx rd ra rb z31) := by
  refine Laws.FixedBits.of_eq ?_
  delta encode Instr.row
  simp (disch := decide) only [or_and_mask, put_and_mask]
  decide

theorem Laws.FixedBits.neg (rd : GprNum) (ra : GprNum) (z16 : BitVec 5) (oe : Bool) (rc : Bool) : Laws.FixedBits.Statement (.neg rd ra z16 oe rc) := by
  refine Laws.FixedBits.of_eq ?_
  delta encode Instr.row
  cases oe <;>
  simp (disch := decide) only [or_and_mask, put_and_mask, putBit_and_mask] <;> decide

theorem Laws.FixedBits.lbzux (rd : GprNum) (ra : GprNum) (rb : GprNum) (z31 : BitVec 1) : Laws.FixedBits.Statement (.lbzux rd ra rb z31) := by
  refine Laws.FixedBits.of_eq ?_
  delta encode Instr.row
  simp (disch := decide) only [or_and_mask, put_and_mask]
  decide

theorem Laws.FixedBits.nor (rs : GprNum) (ra : GprNum) (rb : GprNum) (rc : Bool) : Laws.FixedBits.Statement (.nor rs ra rb rc) := by
  refine Laws.FixedBits.of_eq ?_
  delta encode Instr.row
  simp (disch := decide) only [or_and_mask, put_and_mask, putBit_and_mask]
  decide

theorem Laws.FixedBits.subfe (rd : GprNum) (ra : GprNum) (rb : GprNum) (oe : Bool) (rc : Bool) : Laws.FixedBits.Statement (.subfe rd ra rb oe rc) := by
  refine Laws.FixedBits.of_eq ?_
  delta encode Instr.row
  cases oe <;>
  simp (disch := decide) only [or_and_mask, put_and_mask, putBit_and_mask] <;> decide

theorem Laws.FixedBits.adde (rd : GprNum) (ra : GprNum) (rb : GprNum) (oe : Bool) (rc : Bool) : Laws.FixedBits.Statement (.adde rd ra rb oe rc) := by
  refine Laws.FixedBits.of_eq ?_
  delta encode Instr.row
  cases oe <;>
  simp (disch := decide) only [or_and_mask, put_and_mask, putBit_and_mask] <;> decide

theorem Laws.FixedBits.mtcrf (rs : GprNum) (z11 : BitVec 1) (crm : BitVec 8) (z20 : BitVec 1) (z31 : BitVec 1) : Laws.FixedBits.Statement (.mtcrf rs z11 crm z20 z31) := by
  refine Laws.FixedBits.of_eq ?_
  delta encode Instr.row
  simp (disch := decide) only [or_and_mask, put_and_mask]
  decide

theorem Laws.FixedBits.mtmsr (rs : GprNum) (z11 : BitVec 5) (z16 : BitVec 5) (z31 : BitVec 1) : Laws.FixedBits.Statement (.mtmsr rs z11 z16 z31) := by
  refine Laws.FixedBits.of_eq ?_
  delta encode Instr.row
  simp (disch := decide) only [or_and_mask, put_and_mask]
  decide

theorem Laws.FixedBits.stwcxDot (rs : GprNum) (ra : GprNum) (rb : GprNum) (z31 : BitVec 1) : Laws.FixedBits.Statement (.stwcxDot rs ra rb z31) := by
  refine Laws.FixedBits.of_eq ?_
  delta encode Instr.row
  simp (disch := decide) only [or_and_mask, put_and_mask]
  decide

theorem Laws.FixedBits.stwx (rs : GprNum) (ra : GprNum) (rb : GprNum) (z31 : BitVec 1) : Laws.FixedBits.Statement (.stwx rs ra rb z31) := by
  refine Laws.FixedBits.of_eq ?_
  delta encode Instr.row
  simp (disch := decide) only [or_and_mask, put_and_mask]
  decide

theorem Laws.FixedBits.stwux (rs : GprNum) (ra : GprNum) (rb : GprNum) (z31 : BitVec 1) : Laws.FixedBits.Statement (.stwux rs ra rb z31) := by
  refine Laws.FixedBits.of_eq ?_
  delta encode Instr.row
  simp (disch := decide) only [or_and_mask, put_and_mask]
  decide

theorem Laws.FixedBits.subfze (rd : GprNum) (ra : GprNum) (z16 : BitVec 5) (oe : Bool) (rc : Bool) : Laws.FixedBits.Statement (.subfze rd ra z16 oe rc) := by
  refine Laws.FixedBits.of_eq ?_
  delta encode Instr.row
  cases oe <;>
  simp (disch := decide) only [or_and_mask, put_and_mask, putBit_and_mask] <;> decide

theorem Laws.FixedBits.addze (rd : GprNum) (ra : GprNum) (z16 : BitVec 5) (oe : Bool) (rc : Bool) : Laws.FixedBits.Statement (.addze rd ra z16 oe rc) := by
  refine Laws.FixedBits.of_eq ?_
  delta encode Instr.row
  cases oe <;>
  simp (disch := decide) only [or_and_mask, put_and_mask, putBit_and_mask] <;> decide

theorem Laws.FixedBits.mtsr (rs : GprNum) (z11 : BitVec 1) (sr : BitVec 4) (z16 : BitVec 5) (z31 : BitVec 1) : Laws.FixedBits.Statement (.mtsr rs z11 sr z16 z31) := by
  refine Laws.FixedBits.of_eq ?_
  delta encode Instr.row
  simp (disch := decide) only [or_and_mask, put_and_mask]
  decide

theorem Laws.FixedBits.stbx (rs : GprNum) (ra : GprNum) (rb : GprNum) (z31 : BitVec 1) : Laws.FixedBits.Statement (.stbx rs ra rb z31) := by
  refine Laws.FixedBits.of_eq ?_
  delta encode Instr.row
  simp (disch := decide) only [or_and_mask, put_and_mask]
  decide

theorem Laws.FixedBits.subfme (rd : GprNum) (ra : GprNum) (z16 : BitVec 5) (oe : Bool) (rc : Bool) : Laws.FixedBits.Statement (.subfme rd ra z16 oe rc) := by
  refine Laws.FixedBits.of_eq ?_
  delta encode Instr.row
  cases oe <;>
  simp (disch := decide) only [or_and_mask, put_and_mask, putBit_and_mask] <;> decide

theorem Laws.FixedBits.addme (rd : GprNum) (ra : GprNum) (z16 : BitVec 5) (oe : Bool) (rc : Bool) : Laws.FixedBits.Statement (.addme rd ra z16 oe rc) := by
  refine Laws.FixedBits.of_eq ?_
  delta encode Instr.row
  cases oe <;>
  simp (disch := decide) only [or_and_mask, put_and_mask, putBit_and_mask] <;> decide

theorem Laws.FixedBits.mullw (rd : GprNum) (ra : GprNum) (rb : GprNum) (oe : Bool) (rc : Bool) : Laws.FixedBits.Statement (.mullw rd ra rb oe rc) := by
  refine Laws.FixedBits.of_eq ?_
  delta encode Instr.row
  cases oe <;>
  simp (disch := decide) only [or_and_mask, put_and_mask, putBit_and_mask] <;> decide

theorem Laws.FixedBits.mtsrin (rs : GprNum) (z11 : BitVec 5) (rb : GprNum) (z31 : BitVec 1) : Laws.FixedBits.Statement (.mtsrin rs z11 rb z31) := by
  refine Laws.FixedBits.of_eq ?_
  delta encode Instr.row
  simp (disch := decide) only [or_and_mask, put_and_mask]
  decide

theorem Laws.FixedBits.dcbtst (z6 : BitVec 5) (ra : GprNum) (rb : GprNum) (z31 : BitVec 1) : Laws.FixedBits.Statement (.dcbtst z6 ra rb z31) := by
  refine Laws.FixedBits.of_eq ?_
  delta encode Instr.row
  simp (disch := decide) only [or_and_mask, put_and_mask]
  decide

theorem Laws.FixedBits.stbux (rs : GprNum) (ra : GprNum) (rb : GprNum) (z31 : BitVec 1) : Laws.FixedBits.Statement (.stbux rs ra rb z31) := by
  refine Laws.FixedBits.of_eq ?_
  delta encode Instr.row
  simp (disch := decide) only [or_and_mask, put_and_mask]
  decide

theorem Laws.FixedBits.add (rd : GprNum) (ra : GprNum) (rb : GprNum) (oe : Bool) (rc : Bool) : Laws.FixedBits.Statement (.add rd ra rb oe rc) := by
  refine Laws.FixedBits.of_eq ?_
  delta encode Instr.row
  cases oe <;>
  simp (disch := decide) only [or_and_mask, put_and_mask, putBit_and_mask] <;> decide

theorem Laws.FixedBits.dcbt (z6 : BitVec 5) (ra : GprNum) (rb : GprNum) (z31 : BitVec 1) : Laws.FixedBits.Statement (.dcbt z6 ra rb z31) := by
  refine Laws.FixedBits.of_eq ?_
  delta encode Instr.row
  simp (disch := decide) only [or_and_mask, put_and_mask]
  decide

theorem Laws.FixedBits.lhzx (rd : GprNum) (ra : GprNum) (rb : GprNum) (z31 : BitVec 1) : Laws.FixedBits.Statement (.lhzx rd ra rb z31) := by
  refine Laws.FixedBits.of_eq ?_
  delta encode Instr.row
  simp (disch := decide) only [or_and_mask, put_and_mask]
  decide

theorem Laws.FixedBits.eqv (rs : GprNum) (ra : GprNum) (rb : GprNum) (rc : Bool) : Laws.FixedBits.Statement (.eqv rs ra rb rc) := by
  refine Laws.FixedBits.of_eq ?_
  delta encode Instr.row
  simp (disch := decide) only [or_and_mask, put_and_mask, putBit_and_mask]
  decide

theorem Laws.FixedBits.tlbie (z6 : BitVec 5) (z11 : BitVec 5) (rb : GprNum) (z31 : BitVec 1) : Laws.FixedBits.Statement (.tlbie z6 z11 rb z31) := by
  refine Laws.FixedBits.of_eq ?_
  delta encode Instr.row
  simp (disch := decide) only [or_and_mask, put_and_mask]
  decide

theorem Laws.FixedBits.lhzux (rd : GprNum) (ra : GprNum) (rb : GprNum) (z31 : BitVec 1) : Laws.FixedBits.Statement (.lhzux rd ra rb z31) := by
  refine Laws.FixedBits.of_eq ?_
  delta encode Instr.row
  simp (disch := decide) only [or_and_mask, put_and_mask]
  decide

theorem Laws.FixedBits.xor (rs : GprNum) (ra : GprNum) (rb : GprNum) (rc : Bool) : Laws.FixedBits.Statement (.xor rs ra rb rc) := by
  refine Laws.FixedBits.of_eq ?_
  delta encode Instr.row
  simp (disch := decide) only [or_and_mask, put_and_mask, putBit_and_mask]
  decide

theorem Laws.FixedBits.mfspr (rd : GprNum) (spr : SprNum) (z31 : BitVec 1) : Laws.FixedBits.Statement (.mfspr rd spr z31) := by
  refine Laws.FixedBits.of_eq ?_
  delta encode Instr.row
  simp (disch := decide) only [or_and_mask, put_and_mask]
  decide

theorem Laws.FixedBits.lhax (rd : GprNum) (ra : GprNum) (rb : GprNum) (z31 : BitVec 1) : Laws.FixedBits.Statement (.lhax rd ra rb z31) := by
  refine Laws.FixedBits.of_eq ?_
  delta encode Instr.row
  simp (disch := decide) only [or_and_mask, put_and_mask]
  decide

theorem Laws.FixedBits.mftb (rd : GprNum) (tbr : SprNum) (z31 : BitVec 1) : Laws.FixedBits.Statement (.mftb rd tbr z31) := by
  refine Laws.FixedBits.of_eq ?_
  delta encode Instr.row
  simp (disch := decide) only [or_and_mask, put_and_mask]
  decide

theorem Laws.FixedBits.lhaux (rd : GprNum) (ra : GprNum) (rb : GprNum) (z31 : BitVec 1) : Laws.FixedBits.Statement (.lhaux rd ra rb z31) := by
  refine Laws.FixedBits.of_eq ?_
  delta encode Instr.row
  simp (disch := decide) only [or_and_mask, put_and_mask]
  decide

theorem Laws.FixedBits.sthx (rs : GprNum) (ra : GprNum) (rb : GprNum) (z31 : BitVec 1) : Laws.FixedBits.Statement (.sthx rs ra rb z31) := by
  refine Laws.FixedBits.of_eq ?_
  delta encode Instr.row
  simp (disch := decide) only [or_and_mask, put_and_mask]
  decide

theorem Laws.FixedBits.orc (rs : GprNum) (ra : GprNum) (rb : GprNum) (rc : Bool) : Laws.FixedBits.Statement (.orc rs ra rb rc) := by
  refine Laws.FixedBits.of_eq ?_
  delta encode Instr.row
  simp (disch := decide) only [or_and_mask, put_and_mask, putBit_and_mask]
  decide

theorem Laws.FixedBits.sthux (rs : GprNum) (ra : GprNum) (rb : GprNum) (z31 : BitVec 1) : Laws.FixedBits.Statement (.sthux rs ra rb z31) := by
  refine Laws.FixedBits.of_eq ?_
  delta encode Instr.row
  simp (disch := decide) only [or_and_mask, put_and_mask]
  decide

theorem Laws.FixedBits.or (rs : GprNum) (ra : GprNum) (rb : GprNum) (rc : Bool) : Laws.FixedBits.Statement (.or rs ra rb rc) := by
  refine Laws.FixedBits.of_eq ?_
  delta encode Instr.row
  simp (disch := decide) only [or_and_mask, put_and_mask, putBit_and_mask]
  decide

theorem Laws.FixedBits.divwu (rd : GprNum) (ra : GprNum) (rb : GprNum) (oe : Bool) (rc : Bool) : Laws.FixedBits.Statement (.divwu rd ra rb oe rc) := by
  refine Laws.FixedBits.of_eq ?_
  delta encode Instr.row
  cases oe <;>
  simp (disch := decide) only [or_and_mask, put_and_mask, putBit_and_mask] <;> decide

theorem Laws.FixedBits.mtspr (rs : GprNum) (spr : SprNum) (z31 : BitVec 1) : Laws.FixedBits.Statement (.mtspr rs spr z31) := by
  refine Laws.FixedBits.of_eq ?_
  delta encode Instr.row
  simp (disch := decide) only [or_and_mask, put_and_mask]
  decide

theorem Laws.FixedBits.dcbi (z6 : BitVec 5) (ra : GprNum) (rb : GprNum) (z31 : BitVec 1) : Laws.FixedBits.Statement (.dcbi z6 ra rb z31) := by
  refine Laws.FixedBits.of_eq ?_
  delta encode Instr.row
  simp (disch := decide) only [or_and_mask, put_and_mask]
  decide

theorem Laws.FixedBits.nand (rs : GprNum) (ra : GprNum) (rb : GprNum) (rc : Bool) : Laws.FixedBits.Statement (.nand rs ra rb rc) := by
  refine Laws.FixedBits.of_eq ?_
  delta encode Instr.row
  simp (disch := decide) only [or_and_mask, put_and_mask, putBit_and_mask]
  decide

theorem Laws.FixedBits.divw (rd : GprNum) (ra : GprNum) (rb : GprNum) (oe : Bool) (rc : Bool) : Laws.FixedBits.Statement (.divw rd ra rb oe rc) := by
  refine Laws.FixedBits.of_eq ?_
  delta encode Instr.row
  cases oe <;>
  simp (disch := decide) only [or_and_mask, put_and_mask, putBit_and_mask] <;> decide

theorem Laws.FixedBits.mcrxr (crfD : CrField) (z9 : BitVec 2) (z11 : BitVec 5) (z16 : BitVec 5) (z31 : BitVec 1) : Laws.FixedBits.Statement (.mcrxr crfD z9 z11 z16 z31) := by
  refine Laws.FixedBits.of_eq ?_
  delta encode Instr.row
  simp (disch := decide) only [or_and_mask, put_and_mask]
  decide

theorem Laws.FixedBits.lswx (rd : GprNum) (ra : GprNum) (rb : GprNum) (z31 : BitVec 1) : Laws.FixedBits.Statement (.lswx rd ra rb z31) := by
  refine Laws.FixedBits.of_eq ?_
  delta encode Instr.row
  simp (disch := decide) only [or_and_mask, put_and_mask]
  decide

theorem Laws.FixedBits.lwbrx (rd : GprNum) (ra : GprNum) (rb : GprNum) (z31 : BitVec 1) : Laws.FixedBits.Statement (.lwbrx rd ra rb z31) := by
  refine Laws.FixedBits.of_eq ?_
  delta encode Instr.row
  simp (disch := decide) only [or_and_mask, put_and_mask]
  decide

theorem Laws.FixedBits.lfsx (frd : FprNum) (ra : GprNum) (rb : GprNum) (z31 : BitVec 1) : Laws.FixedBits.Statement (.lfsx frd ra rb z31) := by
  refine Laws.FixedBits.of_eq ?_
  delta encode Instr.row
  simp (disch := decide) only [or_and_mask, put_and_mask]
  decide

theorem Laws.FixedBits.srw (rs : GprNum) (ra : GprNum) (rb : GprNum) (rc : Bool) : Laws.FixedBits.Statement (.srw rs ra rb rc) := by
  refine Laws.FixedBits.of_eq ?_
  delta encode Instr.row
  simp (disch := decide) only [or_and_mask, put_and_mask, putBit_and_mask]
  decide

theorem Laws.FixedBits.tlbsync (z6 : BitVec 5) (z11 : BitVec 5) (z16 : BitVec 5) (z31 : BitVec 1) : Laws.FixedBits.Statement (.tlbsync z6 z11 z16 z31) := by
  refine Laws.FixedBits.of_eq ?_
  delta encode Instr.row
  simp (disch := decide) only [or_and_mask, put_and_mask]
  decide

theorem Laws.FixedBits.lfsux (frd : FprNum) (ra : GprNum) (rb : GprNum) (z31 : BitVec 1) : Laws.FixedBits.Statement (.lfsux frd ra rb z31) := by
  refine Laws.FixedBits.of_eq ?_
  delta encode Instr.row
  simp (disch := decide) only [or_and_mask, put_and_mask]
  decide

theorem Laws.FixedBits.mfsr (rd : GprNum) (z11 : BitVec 1) (sr : BitVec 4) (z16 : BitVec 5) (z31 : BitVec 1) : Laws.FixedBits.Statement (.mfsr rd z11 sr z16 z31) := by
  refine Laws.FixedBits.of_eq ?_
  delta encode Instr.row
  simp (disch := decide) only [or_and_mask, put_and_mask]
  decide

theorem Laws.FixedBits.lswi (rd : GprNum) (ra : GprNum) (nb : BitVec 5) (z31 : BitVec 1) : Laws.FixedBits.Statement (.lswi rd ra nb z31) := by
  refine Laws.FixedBits.of_eq ?_
  delta encode Instr.row
  simp (disch := decide) only [or_and_mask, put_and_mask]
  decide

theorem Laws.FixedBits.sync (z6 : BitVec 5) (z11 : BitVec 5) (z16 : BitVec 5) (z31 : BitVec 1) : Laws.FixedBits.Statement (.sync z6 z11 z16 z31) := by
  refine Laws.FixedBits.of_eq ?_
  delta encode Instr.row
  simp (disch := decide) only [or_and_mask, put_and_mask]
  decide

theorem Laws.FixedBits.lfdx (frd : FprNum) (ra : GprNum) (rb : GprNum) (z31 : BitVec 1) : Laws.FixedBits.Statement (.lfdx frd ra rb z31) := by
  refine Laws.FixedBits.of_eq ?_
  delta encode Instr.row
  simp (disch := decide) only [or_and_mask, put_and_mask]
  decide

theorem Laws.FixedBits.lfdux (frd : FprNum) (ra : GprNum) (rb : GprNum) (z31 : BitVec 1) : Laws.FixedBits.Statement (.lfdux frd ra rb z31) := by
  refine Laws.FixedBits.of_eq ?_
  delta encode Instr.row
  simp (disch := decide) only [or_and_mask, put_and_mask]
  decide

theorem Laws.FixedBits.mfsrin (rd : GprNum) (z11 : BitVec 5) (rb : GprNum) (z31 : BitVec 1) : Laws.FixedBits.Statement (.mfsrin rd z11 rb z31) := by
  refine Laws.FixedBits.of_eq ?_
  delta encode Instr.row
  simp (disch := decide) only [or_and_mask, put_and_mask]
  decide

theorem Laws.FixedBits.stswx (rs : GprNum) (ra : GprNum) (rb : GprNum) (z31 : BitVec 1) : Laws.FixedBits.Statement (.stswx rs ra rb z31) := by
  refine Laws.FixedBits.of_eq ?_
  delta encode Instr.row
  simp (disch := decide) only [or_and_mask, put_and_mask]
  decide

theorem Laws.FixedBits.stwbrx (rs : GprNum) (ra : GprNum) (rb : GprNum) (z31 : BitVec 1) : Laws.FixedBits.Statement (.stwbrx rs ra rb z31) := by
  refine Laws.FixedBits.of_eq ?_
  delta encode Instr.row
  simp (disch := decide) only [or_and_mask, put_and_mask]
  decide

theorem Laws.FixedBits.stfsx (frs : FprNum) (ra : GprNum) (rb : GprNum) (z31 : BitVec 1) : Laws.FixedBits.Statement (.stfsx frs ra rb z31) := by
  refine Laws.FixedBits.of_eq ?_
  delta encode Instr.row
  simp (disch := decide) only [or_and_mask, put_and_mask]
  decide

theorem Laws.FixedBits.stfsux (frs : FprNum) (ra : GprNum) (rb : GprNum) (z31 : BitVec 1) : Laws.FixedBits.Statement (.stfsux frs ra rb z31) := by
  refine Laws.FixedBits.of_eq ?_
  delta encode Instr.row
  simp (disch := decide) only [or_and_mask, put_and_mask]
  decide

theorem Laws.FixedBits.stswi (rs : GprNum) (ra : GprNum) (nb : BitVec 5) (z31 : BitVec 1) : Laws.FixedBits.Statement (.stswi rs ra nb z31) := by
  refine Laws.FixedBits.of_eq ?_
  delta encode Instr.row
  simp (disch := decide) only [or_and_mask, put_and_mask]
  decide

theorem Laws.FixedBits.stfdx (frs : FprNum) (ra : GprNum) (rb : GprNum) (z31 : BitVec 1) : Laws.FixedBits.Statement (.stfdx frs ra rb z31) := by
  refine Laws.FixedBits.of_eq ?_
  delta encode Instr.row
  simp (disch := decide) only [or_and_mask, put_and_mask]
  decide

theorem Laws.FixedBits.stfdux (frs : FprNum) (ra : GprNum) (rb : GprNum) (z31 : BitVec 1) : Laws.FixedBits.Statement (.stfdux frs ra rb z31) := by
  refine Laws.FixedBits.of_eq ?_
  delta encode Instr.row
  simp (disch := decide) only [or_and_mask, put_and_mask]
  decide

theorem Laws.FixedBits.lhbrx (rd : GprNum) (ra : GprNum) (rb : GprNum) (z31 : BitVec 1) : Laws.FixedBits.Statement (.lhbrx rd ra rb z31) := by
  refine Laws.FixedBits.of_eq ?_
  delta encode Instr.row
  simp (disch := decide) only [or_and_mask, put_and_mask]
  decide

theorem Laws.FixedBits.sraw (rs : GprNum) (ra : GprNum) (rb : GprNum) (rc : Bool) : Laws.FixedBits.Statement (.sraw rs ra rb rc) := by
  refine Laws.FixedBits.of_eq ?_
  delta encode Instr.row
  simp (disch := decide) only [or_and_mask, put_and_mask, putBit_and_mask]
  decide

theorem Laws.FixedBits.srawi (rs : GprNum) (ra : GprNum) (sh : BitVec 5) (rc : Bool) : Laws.FixedBits.Statement (.srawi rs ra sh rc) := by
  refine Laws.FixedBits.of_eq ?_
  delta encode Instr.row
  simp (disch := decide) only [or_and_mask, put_and_mask, putBit_and_mask]
  decide

theorem Laws.FixedBits.eieio (z6 : BitVec 5) (z11 : BitVec 5) (z16 : BitVec 5) (z31 : BitVec 1) : Laws.FixedBits.Statement (.eieio z6 z11 z16 z31) := by
  refine Laws.FixedBits.of_eq ?_
  delta encode Instr.row
  simp (disch := decide) only [or_and_mask, put_and_mask]
  decide

theorem Laws.FixedBits.sthbrx (rs : GprNum) (ra : GprNum) (rb : GprNum) (z31 : BitVec 1) : Laws.FixedBits.Statement (.sthbrx rs ra rb z31) := by
  refine Laws.FixedBits.of_eq ?_
  delta encode Instr.row
  simp (disch := decide) only [or_and_mask, put_and_mask]
  decide

theorem Laws.FixedBits.extsh (rs : GprNum) (ra : GprNum) (z16 : BitVec 5) (rc : Bool) : Laws.FixedBits.Statement (.extsh rs ra z16 rc) := by
  refine Laws.FixedBits.of_eq ?_
  delta encode Instr.row
  simp (disch := decide) only [or_and_mask, put_and_mask, putBit_and_mask]
  decide

theorem Laws.FixedBits.extsb (rs : GprNum) (ra : GprNum) (z16 : BitVec 5) (rc : Bool) : Laws.FixedBits.Statement (.extsb rs ra z16 rc) := by
  refine Laws.FixedBits.of_eq ?_
  delta encode Instr.row
  simp (disch := decide) only [or_and_mask, put_and_mask, putBit_and_mask]
  decide

theorem Laws.FixedBits.icbi (z6 : BitVec 5) (ra : GprNum) (rb : GprNum) (z31 : BitVec 1) : Laws.FixedBits.Statement (.icbi z6 ra rb z31) := by
  refine Laws.FixedBits.of_eq ?_
  delta encode Instr.row
  simp (disch := decide) only [or_and_mask, put_and_mask]
  decide

theorem Laws.FixedBits.stfiwx (frs : FprNum) (ra : GprNum) (rb : GprNum) (z31 : BitVec 1) : Laws.FixedBits.Statement (.stfiwx frs ra rb z31) := by
  refine Laws.FixedBits.of_eq ?_
  delta encode Instr.row
  simp (disch := decide) only [or_and_mask, put_and_mask]
  decide

theorem Laws.FixedBits.dcbz (z6 : BitVec 5) (ra : GprNum) (rb : GprNum) (z31 : BitVec 1) : Laws.FixedBits.Statement (.dcbz z6 ra rb z31) := by
  refine Laws.FixedBits.of_eq ?_
  delta encode Instr.row
  simp (disch := decide) only [or_and_mask, put_and_mask]
  decide

theorem Laws.FixedBits.lwz (rd : GprNum) (ra : GprNum) (d : BitVec 16) : Laws.FixedBits.Statement (.lwz rd ra d) := by
  refine Laws.FixedBits.of_eq ?_
  delta encode Instr.row
  simp (disch := decide) only [or_and_mask, put_and_mask]
  decide

theorem Laws.FixedBits.lwzu (rd : GprNum) (ra : GprNum) (d : BitVec 16) : Laws.FixedBits.Statement (.lwzu rd ra d) := by
  refine Laws.FixedBits.of_eq ?_
  delta encode Instr.row
  simp (disch := decide) only [or_and_mask, put_and_mask]
  decide

theorem Laws.FixedBits.lbz (rd : GprNum) (ra : GprNum) (d : BitVec 16) : Laws.FixedBits.Statement (.lbz rd ra d) := by
  refine Laws.FixedBits.of_eq ?_
  delta encode Instr.row
  simp (disch := decide) only [or_and_mask, put_and_mask]
  decide

theorem Laws.FixedBits.lbzu (rd : GprNum) (ra : GprNum) (d : BitVec 16) : Laws.FixedBits.Statement (.lbzu rd ra d) := by
  refine Laws.FixedBits.of_eq ?_
  delta encode Instr.row
  simp (disch := decide) only [or_and_mask, put_and_mask]
  decide

theorem Laws.FixedBits.stw (rs : GprNum) (ra : GprNum) (d : BitVec 16) : Laws.FixedBits.Statement (.stw rs ra d) := by
  refine Laws.FixedBits.of_eq ?_
  delta encode Instr.row
  simp (disch := decide) only [or_and_mask, put_and_mask]
  decide

theorem Laws.FixedBits.stwu (rs : GprNum) (ra : GprNum) (d : BitVec 16) : Laws.FixedBits.Statement (.stwu rs ra d) := by
  refine Laws.FixedBits.of_eq ?_
  delta encode Instr.row
  simp (disch := decide) only [or_and_mask, put_and_mask]
  decide

theorem Laws.FixedBits.stb (rs : GprNum) (ra : GprNum) (d : BitVec 16) : Laws.FixedBits.Statement (.stb rs ra d) := by
  refine Laws.FixedBits.of_eq ?_
  delta encode Instr.row
  simp (disch := decide) only [or_and_mask, put_and_mask]
  decide

theorem Laws.FixedBits.stbu (rs : GprNum) (ra : GprNum) (d : BitVec 16) : Laws.FixedBits.Statement (.stbu rs ra d) := by
  refine Laws.FixedBits.of_eq ?_
  delta encode Instr.row
  simp (disch := decide) only [or_and_mask, put_and_mask]
  decide

theorem Laws.FixedBits.lhz (rd : GprNum) (ra : GprNum) (d : BitVec 16) : Laws.FixedBits.Statement (.lhz rd ra d) := by
  refine Laws.FixedBits.of_eq ?_
  delta encode Instr.row
  simp (disch := decide) only [or_and_mask, put_and_mask]
  decide

theorem Laws.FixedBits.lhzu (rd : GprNum) (ra : GprNum) (d : BitVec 16) : Laws.FixedBits.Statement (.lhzu rd ra d) := by
  refine Laws.FixedBits.of_eq ?_
  delta encode Instr.row
  simp (disch := decide) only [or_and_mask, put_and_mask]
  decide

theorem Laws.FixedBits.lha (rd : GprNum) (ra : GprNum) (d : BitVec 16) : Laws.FixedBits.Statement (.lha rd ra d) := by
  refine Laws.FixedBits.of_eq ?_
  delta encode Instr.row
  simp (disch := decide) only [or_and_mask, put_and_mask]
  decide

theorem Laws.FixedBits.lhau (rd : GprNum) (ra : GprNum) (d : BitVec 16) : Laws.FixedBits.Statement (.lhau rd ra d) := by
  refine Laws.FixedBits.of_eq ?_
  delta encode Instr.row
  simp (disch := decide) only [or_and_mask, put_and_mask]
  decide

theorem Laws.FixedBits.sth (rs : GprNum) (ra : GprNum) (d : BitVec 16) : Laws.FixedBits.Statement (.sth rs ra d) := by
  refine Laws.FixedBits.of_eq ?_
  delta encode Instr.row
  simp (disch := decide) only [or_and_mask, put_and_mask]
  decide

theorem Laws.FixedBits.sthu (rs : GprNum) (ra : GprNum) (d : BitVec 16) : Laws.FixedBits.Statement (.sthu rs ra d) := by
  refine Laws.FixedBits.of_eq ?_
  delta encode Instr.row
  simp (disch := decide) only [or_and_mask, put_and_mask]
  decide

theorem Laws.FixedBits.lmw (rd : GprNum) (ra : GprNum) (d : BitVec 16) : Laws.FixedBits.Statement (.lmw rd ra d) := by
  refine Laws.FixedBits.of_eq ?_
  delta encode Instr.row
  simp (disch := decide) only [or_and_mask, put_and_mask]
  decide

theorem Laws.FixedBits.stmw (rs : GprNum) (ra : GprNum) (d : BitVec 16) : Laws.FixedBits.Statement (.stmw rs ra d) := by
  refine Laws.FixedBits.of_eq ?_
  delta encode Instr.row
  simp (disch := decide) only [or_and_mask, put_and_mask]
  decide

theorem Laws.FixedBits.lfs (frd : FprNum) (ra : GprNum) (d : BitVec 16) : Laws.FixedBits.Statement (.lfs frd ra d) := by
  refine Laws.FixedBits.of_eq ?_
  delta encode Instr.row
  simp (disch := decide) only [or_and_mask, put_and_mask]
  decide

theorem Laws.FixedBits.lfsu (frd : FprNum) (ra : GprNum) (d : BitVec 16) : Laws.FixedBits.Statement (.lfsu frd ra d) := by
  refine Laws.FixedBits.of_eq ?_
  delta encode Instr.row
  simp (disch := decide) only [or_and_mask, put_and_mask]
  decide

theorem Laws.FixedBits.lfd (frd : FprNum) (ra : GprNum) (d : BitVec 16) : Laws.FixedBits.Statement (.lfd frd ra d) := by
  refine Laws.FixedBits.of_eq ?_
  delta encode Instr.row
  simp (disch := decide) only [or_and_mask, put_and_mask]
  decide

theorem Laws.FixedBits.lfdu (frd : FprNum) (ra : GprNum) (d : BitVec 16) : Laws.FixedBits.Statement (.lfdu frd ra d) := by
  refine Laws.FixedBits.of_eq ?_
  delta encode Instr.row
  simp (disch := decide) only [or_and_mask, put_and_mask]
  decide

theorem Laws.FixedBits.stfs (frs : FprNum) (ra : GprNum) (d : BitVec 16) : Laws.FixedBits.Statement (.stfs frs ra d) := by
  refine Laws.FixedBits.of_eq ?_
  delta encode Instr.row
  simp (disch := decide) only [or_and_mask, put_and_mask]
  decide

theorem Laws.FixedBits.stfsu (frs : FprNum) (ra : GprNum) (d : BitVec 16) : Laws.FixedBits.Statement (.stfsu frs ra d) := by
  refine Laws.FixedBits.of_eq ?_
  delta encode Instr.row
  simp (disch := decide) only [or_and_mask, put_and_mask]
  decide

theorem Laws.FixedBits.stfd (frs : FprNum) (ra : GprNum) (d : BitVec 16) : Laws.FixedBits.Statement (.stfd frs ra d) := by
  refine Laws.FixedBits.of_eq ?_
  delta encode Instr.row
  simp (disch := decide) only [or_and_mask, put_and_mask]
  decide

theorem Laws.FixedBits.stfdu (frs : FprNum) (ra : GprNum) (d : BitVec 16) : Laws.FixedBits.Statement (.stfdu frs ra d) := by
  refine Laws.FixedBits.of_eq ?_
  delta encode Instr.row
  simp (disch := decide) only [or_and_mask, put_and_mask]
  decide

theorem Laws.FixedBits.fdivs (frd : FprNum) (fra : FprNum) (frb : FprNum) (z21 : BitVec 5) (rc : Bool) : Laws.FixedBits.Statement (.fdivs frd fra frb z21 rc) := by
  refine Laws.FixedBits.of_eq ?_
  delta encode Instr.row
  simp (disch := decide) only [or_and_mask, put_and_mask, putBit_and_mask]
  decide

theorem Laws.FixedBits.fsubs (frd : FprNum) (fra : FprNum) (frb : FprNum) (z21 : BitVec 5) (rc : Bool) : Laws.FixedBits.Statement (.fsubs frd fra frb z21 rc) := by
  refine Laws.FixedBits.of_eq ?_
  delta encode Instr.row
  simp (disch := decide) only [or_and_mask, put_and_mask, putBit_and_mask]
  decide

theorem Laws.FixedBits.fadds (frd : FprNum) (fra : FprNum) (frb : FprNum) (z21 : BitVec 5) (rc : Bool) : Laws.FixedBits.Statement (.fadds frd fra frb z21 rc) := by
  refine Laws.FixedBits.of_eq ?_
  delta encode Instr.row
  simp (disch := decide) only [or_and_mask, put_and_mask, putBit_and_mask]
  decide

theorem Laws.FixedBits.fres (frd : FprNum) (z11 : BitVec 5) (frb : FprNum) (z21 : BitVec 5) (rc : Bool) : Laws.FixedBits.Statement (.fres frd z11 frb z21 rc) := by
  refine Laws.FixedBits.of_eq ?_
  delta encode Instr.row
  simp (disch := decide) only [or_and_mask, put_and_mask, putBit_and_mask]
  decide

theorem Laws.FixedBits.fmuls (frd : FprNum) (fra : FprNum) (z16 : BitVec 5) (frc : FprNum) (rc : Bool) : Laws.FixedBits.Statement (.fmuls frd fra z16 frc rc) := by
  refine Laws.FixedBits.of_eq ?_
  delta encode Instr.row
  simp (disch := decide) only [or_and_mask, put_and_mask, putBit_and_mask]
  decide

theorem Laws.FixedBits.fmsubs (frd : FprNum) (fra : FprNum) (frb : FprNum) (frc : FprNum) (rc : Bool) : Laws.FixedBits.Statement (.fmsubs frd fra frb frc rc) := by
  refine Laws.FixedBits.of_eq ?_
  delta encode Instr.row
  simp (disch := decide) only [or_and_mask, put_and_mask, putBit_and_mask]
  decide

theorem Laws.FixedBits.fmadds (frd : FprNum) (fra : FprNum) (frb : FprNum) (frc : FprNum) (rc : Bool) : Laws.FixedBits.Statement (.fmadds frd fra frb frc rc) := by
  refine Laws.FixedBits.of_eq ?_
  delta encode Instr.row
  simp (disch := decide) only [or_and_mask, put_and_mask, putBit_and_mask]
  decide

theorem Laws.FixedBits.fnmsubs (frd : FprNum) (fra : FprNum) (frb : FprNum) (frc : FprNum) (rc : Bool) : Laws.FixedBits.Statement (.fnmsubs frd fra frb frc rc) := by
  refine Laws.FixedBits.of_eq ?_
  delta encode Instr.row
  simp (disch := decide) only [or_and_mask, put_and_mask, putBit_and_mask]
  decide

theorem Laws.FixedBits.fnmadds (frd : FprNum) (fra : FprNum) (frb : FprNum) (frc : FprNum) (rc : Bool) : Laws.FixedBits.Statement (.fnmadds frd fra frb frc rc) := by
  refine Laws.FixedBits.of_eq ?_
  delta encode Instr.row
  simp (disch := decide) only [or_and_mask, put_and_mask, putBit_and_mask]
  decide

theorem Laws.FixedBits.fdiv (frd : FprNum) (fra : FprNum) (frb : FprNum) (z21 : BitVec 5) (rc : Bool) : Laws.FixedBits.Statement (.fdiv frd fra frb z21 rc) := by
  refine Laws.FixedBits.of_eq ?_
  delta encode Instr.row
  simp (disch := decide) only [or_and_mask, put_and_mask, putBit_and_mask]
  decide

theorem Laws.FixedBits.fsub (frd : FprNum) (fra : FprNum) (frb : FprNum) (z21 : BitVec 5) (rc : Bool) : Laws.FixedBits.Statement (.fsub frd fra frb z21 rc) := by
  refine Laws.FixedBits.of_eq ?_
  delta encode Instr.row
  simp (disch := decide) only [or_and_mask, put_and_mask, putBit_and_mask]
  decide

theorem Laws.FixedBits.fadd (frd : FprNum) (fra : FprNum) (frb : FprNum) (z21 : BitVec 5) (rc : Bool) : Laws.FixedBits.Statement (.fadd frd fra frb z21 rc) := by
  refine Laws.FixedBits.of_eq ?_
  delta encode Instr.row
  simp (disch := decide) only [or_and_mask, put_and_mask, putBit_and_mask]
  decide

theorem Laws.FixedBits.fmul (frd : FprNum) (fra : FprNum) (z16 : BitVec 5) (frc : FprNum) (rc : Bool) : Laws.FixedBits.Statement (.fmul frd fra z16 frc rc) := by
  refine Laws.FixedBits.of_eq ?_
  delta encode Instr.row
  simp (disch := decide) only [or_and_mask, put_and_mask, putBit_and_mask]
  decide

theorem Laws.FixedBits.frsqrte (frd : FprNum) (z11 : BitVec 5) (frb : FprNum) (z21 : BitVec 5) (rc : Bool) : Laws.FixedBits.Statement (.frsqrte frd z11 frb z21 rc) := by
  refine Laws.FixedBits.of_eq ?_
  delta encode Instr.row
  simp (disch := decide) only [or_and_mask, put_and_mask, putBit_and_mask]
  decide

theorem Laws.FixedBits.fmsub (frd : FprNum) (fra : FprNum) (frb : FprNum) (frc : FprNum) (rc : Bool) : Laws.FixedBits.Statement (.fmsub frd fra frb frc rc) := by
  refine Laws.FixedBits.of_eq ?_
  delta encode Instr.row
  simp (disch := decide) only [or_and_mask, put_and_mask, putBit_and_mask]
  decide

theorem Laws.FixedBits.fmadd (frd : FprNum) (fra : FprNum) (frb : FprNum) (frc : FprNum) (rc : Bool) : Laws.FixedBits.Statement (.fmadd frd fra frb frc rc) := by
  refine Laws.FixedBits.of_eq ?_
  delta encode Instr.row
  simp (disch := decide) only [or_and_mask, put_and_mask, putBit_and_mask]
  decide

theorem Laws.FixedBits.fnmsub (frd : FprNum) (fra : FprNum) (frb : FprNum) (frc : FprNum) (rc : Bool) : Laws.FixedBits.Statement (.fnmsub frd fra frb frc rc) := by
  refine Laws.FixedBits.of_eq ?_
  delta encode Instr.row
  simp (disch := decide) only [or_and_mask, put_and_mask, putBit_and_mask]
  decide

theorem Laws.FixedBits.fnmadd (frd : FprNum) (fra : FprNum) (frb : FprNum) (frc : FprNum) (rc : Bool) : Laws.FixedBits.Statement (.fnmadd frd fra frb frc rc) := by
  refine Laws.FixedBits.of_eq ?_
  delta encode Instr.row
  simp (disch := decide) only [or_and_mask, put_and_mask, putBit_and_mask]
  decide

theorem Laws.FixedBits.fcmpu (crfD : CrField) (z9 : BitVec 2) (fra : FprNum) (frb : FprNum) (z31 : BitVec 1) : Laws.FixedBits.Statement (.fcmpu crfD z9 fra frb z31) := by
  refine Laws.FixedBits.of_eq ?_
  delta encode Instr.row
  simp (disch := decide) only [or_and_mask, put_and_mask]
  decide

theorem Laws.FixedBits.frsp (frd : FprNum) (z11 : BitVec 5) (frb : FprNum) (rc : Bool) : Laws.FixedBits.Statement (.frsp frd z11 frb rc) := by
  refine Laws.FixedBits.of_eq ?_
  delta encode Instr.row
  simp (disch := decide) only [or_and_mask, put_and_mask, putBit_and_mask]
  decide

theorem Laws.FixedBits.fctiw (frd : FprNum) (z11 : BitVec 5) (frb : FprNum) (rc : Bool) : Laws.FixedBits.Statement (.fctiw frd z11 frb rc) := by
  refine Laws.FixedBits.of_eq ?_
  delta encode Instr.row
  simp (disch := decide) only [or_and_mask, put_and_mask, putBit_and_mask]
  decide

theorem Laws.FixedBits.fctiwz (frd : FprNum) (z11 : BitVec 5) (frb : FprNum) (rc : Bool) : Laws.FixedBits.Statement (.fctiwz frd z11 frb rc) := by
  refine Laws.FixedBits.of_eq ?_
  delta encode Instr.row
  simp (disch := decide) only [or_and_mask, put_and_mask, putBit_and_mask]
  decide

theorem Laws.FixedBits.fcmpo (crfD : CrField) (z9 : BitVec 2) (fra : FprNum) (frb : FprNum) (z31 : BitVec 1) : Laws.FixedBits.Statement (.fcmpo crfD z9 fra frb z31) := by
  refine Laws.FixedBits.of_eq ?_
  delta encode Instr.row
  simp (disch := decide) only [or_and_mask, put_and_mask]
  decide

theorem Laws.FixedBits.mtfsb1 (crbD : CrBit) (z11 : BitVec 5) (z16 : BitVec 5) (rc : Bool) : Laws.FixedBits.Statement (.mtfsb1 crbD z11 z16 rc) := by
  refine Laws.FixedBits.of_eq ?_
  delta encode Instr.row
  simp (disch := decide) only [or_and_mask, put_and_mask, putBit_and_mask]
  decide

theorem Laws.FixedBits.fneg (frd : FprNum) (z11 : BitVec 5) (frb : FprNum) (rc : Bool) : Laws.FixedBits.Statement (.fneg frd z11 frb rc) := by
  refine Laws.FixedBits.of_eq ?_
  delta encode Instr.row
  simp (disch := decide) only [or_and_mask, put_and_mask, putBit_and_mask]
  decide

theorem Laws.FixedBits.mcrfs (crfD : CrField) (z9 : BitVec 2) (crfS : CrField) (z14 : BitVec 2) (z16 : BitVec 5) (z31 : BitVec 1) : Laws.FixedBits.Statement (.mcrfs crfD z9 crfS z14 z16 z31) := by
  refine Laws.FixedBits.of_eq ?_
  delta encode Instr.row
  simp (disch := decide) only [or_and_mask, put_and_mask]
  decide

theorem Laws.FixedBits.mtfsb0 (crbD : CrBit) (z11 : BitVec 5) (z16 : BitVec 5) (rc : Bool) : Laws.FixedBits.Statement (.mtfsb0 crbD z11 z16 rc) := by
  refine Laws.FixedBits.of_eq ?_
  delta encode Instr.row
  simp (disch := decide) only [or_and_mask, put_and_mask, putBit_and_mask]
  decide

theorem Laws.FixedBits.fmr (frd : FprNum) (z11 : BitVec 5) (frb : FprNum) (rc : Bool) : Laws.FixedBits.Statement (.fmr frd z11 frb rc) := by
  refine Laws.FixedBits.of_eq ?_
  delta encode Instr.row
  simp (disch := decide) only [or_and_mask, put_and_mask, putBit_and_mask]
  decide

theorem Laws.FixedBits.mtfsfi (crfD : CrField) (z9 : BitVec 2) (z11 : BitVec 5) (imm : BitVec 4) (z20 : BitVec 1) (rc : Bool) : Laws.FixedBits.Statement (.mtfsfi crfD z9 z11 imm z20 rc) := by
  refine Laws.FixedBits.of_eq ?_
  delta encode Instr.row
  simp (disch := decide) only [or_and_mask, put_and_mask, putBit_and_mask]
  decide

theorem Laws.FixedBits.fnabs (frd : FprNum) (z11 : BitVec 5) (frb : FprNum) (rc : Bool) : Laws.FixedBits.Statement (.fnabs frd z11 frb rc) := by
  refine Laws.FixedBits.of_eq ?_
  delta encode Instr.row
  simp (disch := decide) only [or_and_mask, put_and_mask, putBit_and_mask]
  decide

theorem Laws.FixedBits.fabs (frd : FprNum) (z11 : BitVec 5) (frb : FprNum) (rc : Bool) : Laws.FixedBits.Statement (.fabs frd z11 frb rc) := by
  refine Laws.FixedBits.of_eq ?_
  delta encode Instr.row
  simp (disch := decide) only [or_and_mask, put_and_mask, putBit_and_mask]
  decide

theorem Laws.FixedBits.mffs (frd : FprNum) (z11 : BitVec 5) (z16 : BitVec 5) (rc : Bool) : Laws.FixedBits.Statement (.mffs frd z11 z16 rc) := by
  refine Laws.FixedBits.of_eq ?_
  delta encode Instr.row
  simp (disch := decide) only [or_and_mask, put_and_mask, putBit_and_mask]
  decide

theorem Laws.FixedBits.mtfsf (z6 : BitVec 1) (fm : BitVec 8) (z15 : BitVec 1) (frb : FprNum) (rc : Bool) : Laws.FixedBits.Statement (.mtfsf z6 fm z15 frb rc) := by
  refine Laws.FixedBits.of_eq ?_
  delta encode Instr.row
  simp (disch := decide) only [or_and_mask, put_and_mask, putBit_and_mask]
  decide

end Sys2Proof
end

