-- ==== Sys2Proof/Laws/Rounding.lean ====
section
/-! SUPPORT. The one rounding function of the model is R343's rounding over the rationals: `roundTo_roundsTo`, with what it rests on:
the value of a pattern, the integer logarithm, the cut at a weight, and the pattern of a kept integer. -/

namespace Sys2Proof.Machine

/-! ## Powers of two -/

/-- A power of two as its two shares. -/
theorem two_zpow_split (k : Int) : (2 : ℚ) ^ k = (pow2Up k : ℚ) / (pow2Down k : ℚ) := by
  unfold pow2Up pow2Down
  rcases le_total 0 k with h | h
  · obtain ⟨n, rfl⟩ := Int.eq_ofNat_of_zero_le h
    simp
  · obtain ⟨n, hn⟩ := Int.eq_ofNat_of_zero_le (Int.neg_nonneg_of_nonpos h)
    obtain rfl : k = -(n : Int) := by omega
    simp

/-- The numerator's share is positive. -/
theorem pow2Up_pos (k : Int) : 0 < pow2Up k := Nat.two_pow_pos _

/-- The denominator's share is positive. -/
theorem pow2Down_pos (k : Int) : 0 < pow2Down k := Nat.two_pow_pos _

/-! ## The integer logarithm -/

/-- A logarithm from its two bounds. -/
theorem log_of_bounds {x : ℚ} {z : Int} (h1 : (2 : ℚ) ^ z ≤ x) (h2 : x < (2 : ℚ) ^ (z + 1)) : Int.log 2 x = z := by
  have hx : 0 < x := lt_of_lt_of_le (zpow_pos (by norm_num) z) h1
  have a : z ≤ Int.log 2 x := (Int.zpow_le_iff_le_log (by norm_num) hx).mp (by exact_mod_cast h1)
  have b : Int.log 2 x < z + 1 := (Int.lt_zpow_iff_log_lt (by norm_num) hx).mp (by exact_mod_cast h2)
  omega

/-- A natural number between two powers of two. -/
theorem log2_bounds {n : Nat} (h : 0 < n) : (2 : ℚ) ^ (Nat.log2 n : Int) ≤ n ∧ (n : ℚ) < (2 : ℚ) ^ ((Nat.log2 n : Int) + 1) := by
  have a : 2 ^ Nat.log2 n ≤ n := Nat.log2_self_le (by omega)
  have b : n < 2 ^ (Nat.log2 n + 1) := Nat.lt_log2_self
  constructor
  · rw [zpow_natCast]; exact_mod_cast a
  · have : ((Nat.log2 n : Int) + 1) = ((Nat.log2 n + 1 : Nat) : Int) := by push_cast; rfl
    rw [this, zpow_natCast]; exact_mod_cast b

/-- The model's logarithm of a fraction is the logarithm. -/
theorem floorLog2_eq {num den : Nat} (hn : 0 < num) (hd : 0 < den) (e : Int) :
    floorLog2 num den e = Int.log 2 ((num : ℚ) / den * 2 ^ e) := by
  have hd' : (0 : ℚ) < den := by exact_mod_cast hd
  have h2 : (2 : ℚ) ≠ 0 := by norm_num
  obtain ⟨n1, n2⟩ := log2_bounds hn
  obtain ⟨d1, d2⟩ := log2_bounds hd
  have hp : ∀ k : Int, (0 : ℚ) < 2 ^ k := fun k => zpow_pos (by norm_num) k
  have key : (num * pow2Down ((Nat.log2 num : Int) - Nat.log2 den) < den * pow2Up ((Nat.log2 num : Int) - Nat.log2 den)) ↔
      (num : ℚ) / den < 2 ^ ((Nat.log2 num : Int) - Nat.log2 den) := by
    have hD : (0 : ℚ) < pow2Down ((Nat.log2 num : Int) - Nat.log2 den) := by exact_mod_cast pow2Down_pos _
    rw [two_zpow_split, div_lt_div_iff₀ hd' hD, mul_comm (pow2Up _ : ℚ)]
    exact_mod_cast Iff.rfl
  unfold floorLog2
  simp only
  have low : (2 : ℚ) ^ ((Nat.log2 num : Int) - Nat.log2 den - 1) ≤ (num : ℚ) / den := by
    rw [le_div_iff₀ hd']
    calc (2 : ℚ) ^ ((Nat.log2 num : Int) - Nat.log2 den - 1) * den
        ≤ 2 ^ ((Nat.log2 num : Int) - Nat.log2 den - 1) * 2 ^ ((Nat.log2 den : Int) + 1) :=
          mul_le_mul_of_nonneg_left d2.le (hp _).le
      _ = 2 ^ (Nat.log2 num : Int) := by rw [← zpow_add₀ h2]; congr 1; ring
      _ ≤ num := n1
  have high : (num : ℚ) / den < 2 ^ ((Nat.log2 num : Int) - Nat.log2 den + 1) := by
    rw [div_lt_iff₀ hd']
    calc (num : ℚ) < 2 ^ ((Nat.log2 num : Int) + 1) := n2
      _ = 2 ^ ((Nat.log2 num : Int) - Nat.log2 den + 1) * 2 ^ (Nat.log2 den : Int) := by
          rw [← zpow_add₀ h2]; congr 1; ring
      _ ≤ 2 ^ ((Nat.log2 num : Int) - Nat.log2 den + 1) * den := mul_le_mul_of_nonneg_left d1 (hp _).le
  by_cases hc : num * pow2Down ((Nat.log2 num : Int) - Nat.log2 den) < den * pow2Up ((Nat.log2 num : Int) - Nat.log2 den)
  · rw [if_pos hc]
    symm
    apply log_of_bounds
    · calc (2 : ℚ) ^ (e + ((Nat.log2 num : Int) - Nat.log2 den) - 1)
          = 2 ^ ((Nat.log2 num : Int) - Nat.log2 den - 1) * 2 ^ e := by rw [← zpow_add₀ h2]; congr 1; ring
        _ ≤ _ := mul_le_mul_of_nonneg_right low (hp _).le
    · calc (num : ℚ) / den * 2 ^ e < 2 ^ ((Nat.log2 num : Int) - Nat.log2 den) * 2 ^ e :=
            mul_lt_mul_of_pos_right (key.mp hc) (hp _)
        _ = _ := by rw [← zpow_add₀ h2]; congr 1; ring
  · rw [if_neg hc]
    symm
    apply log_of_bounds
    · calc (2 : ℚ) ^ (e + ((Nat.log2 num : Int) - Nat.log2 den))
          = 2 ^ ((Nat.log2 num : Int) - Nat.log2 den) * 2 ^ e := by rw [← zpow_add₀ h2]; congr 1; ring
        _ ≤ _ := mul_le_mul_of_nonneg_right (not_lt.mp fun h => hc (key.mpr h)) (hp _).le
    · calc (num : ℚ) / den * 2 ^ e < 2 ^ ((Nat.log2 num : Int) - Nat.log2 den + 1) * 2 ^ e :=
            mul_lt_mul_of_pos_right high (hp _)
        _ = _ := by rw [← zpow_add₀ h2]; congr 1; ring

/-! ## The cut at a weight -/

/-- The quotient and the remainder of a fraction of naturals. -/
theorem floor_and_rem {a b : Nat} (hb : 0 < b) :
    ⌊(a : ℚ) / b⌋ = ((a / b : Nat) : Int) ∧ (a : ℚ) / b - ((a / b : Nat) : ℚ) = ((a % b : Nat) : ℚ) / b := by
  have hb' : (b : ℚ) ≠ 0 := by exact_mod_cast hb.ne'
  constructor
  · exact_mod_cast Rat.floor_natCast_div_natCast a b
  · have h : (a : ℚ) = (b : ℚ) * ((a / b : Nat) : ℚ) + ((a % b : Nat) : ℚ) := by exact_mod_cast (Nat.div_add_mod a b).symm
    field_simp
    linarith

/-- R343's inc, over naturals and over the rationals. -/
theorem roundsUp_eq (rn : BitVec 2) (neg : Bool) (n r d : Nat) (hd : 0 < d) :
    roundsUp rn neg n r d = incOf rn neg (n : Int) ((r : ℚ) / d) := by
  have hd' : (0 : ℚ) < d := by exact_mod_cast hd
  have h0 : decide (r ≠ 0) = decide ((r : ℚ) / d ≠ 0) := by
    rw [decide_eq_decide]
    simp [hd.ne']
  have h1 : decide (d < 2 * r) = decide ((1 : ℚ) / 2 < (r : ℚ) / d) := by
    rw [decide_eq_decide, div_lt_div_iff₀ (by norm_num) hd', one_mul, mul_comm (r : ℚ)]
    exact_mod_cast Iff.rfl
  have h2 : decide (2 * r = d) = decide ((r : ℚ) / d = 1 / 2) := by
    rw [decide_eq_decide, div_eq_div_iff hd'.ne' (by norm_num), one_mul, mul_comm (r : ℚ)]
    exact_mod_cast Iff.rfl
  have h3 : decide (n % 2 = 1) = decide ((n : Int) % 2 = 1) := by
    rw [decide_eq_decide]
    omega
  unfold roundsUp incOf
  generalize rn.toNat = k
  match k with
  | 0 =>
    show (decide (d < 2 * r) || (decide (2 * r = d) && decide (n % 2 = 1))) =
      (decide ((1 : ℚ) / 2 < (r : ℚ) / d) || (decide ((r : ℚ) / d = 1 / 2) && decide ((n : Int) % 2 = 1)))
    rw [h1, h2, h3]
  | 1 => rfl
  | 2 =>
    show (decide (r ≠ 0) && !neg) = (decide ((r : ℚ) / d ≠ 0) && !neg)
    rw [h0]
  | _ + 3 =>
    show (decide (r ≠ 0) && neg) = (decide ((r : ℚ) / d ≠ 0) && neg)
    rw [h0]

/-- The cut is the floor, the lost fraction and R343's inc. -/
theorem roundAt_eq (rn : BitVec 2) (neg : Bool) {num den : Nat} (hd : 0 < den) (e q : Int) :
    let x : ℚ := (num : ℚ) / den * 2 ^ e
    let n := ⌊x / 2 ^ q⌋
    let rem := x / 2 ^ q - n
    let inc := incOf rn neg n rem
    ((roundAt rn neg num den e q).kept : ℚ) = (n : ℚ) + (if inc then 1 else 0) ∧
      (roundAt rn neg num den e q).inexact = decide (rem ≠ 0) ∧ (roundAt rn neg num den e q).up = inc ∧ 0 ≤ n := by
  intro x n rem inc
  have hd' : (den : ℚ) ≠ 0 := by exact_mod_cast hd.ne'
  have hb : 0 < den * pow2Down (e - q) := Nat.mul_pos hd (pow2Down_pos _)
  have hb' : ((den * pow2Down (e - q) : Nat) : ℚ) ≠ 0 := by exact_mod_cast hb.ne'
  have hx : x / 2 ^ q = ((num * pow2Up (e - q) : Nat) : ℚ) / ((den * pow2Down (e - q) : Nat) : ℚ) := by
    have h : (2 : ℚ) ^ e / 2 ^ q = 2 ^ (e - q) := (zpow_sub₀ (by norm_num) e q).symm
    show (num : ℚ) / den * 2 ^ e / 2 ^ q = _
    rw [mul_div_assoc, h, two_zpow_split, div_mul_div_comm]
    push_cast
    rfl
  obtain ⟨f1, f2⟩ := floor_and_rem (a := num * pow2Up (e - q)) hb
  have hn : n = ((num * pow2Up (e - q) / (den * pow2Down (e - q)) : Nat) : Int) := by
    show ⌊x / 2 ^ q⌋ = _
    rw [hx, f1]
  have hrem : rem = ((num * pow2Up (e - q) % (den * pow2Down (e - q)) : Nat) : ℚ) / ((den * pow2Down (e - q) : Nat) : ℚ) := by
    show x / 2 ^ q - (n : ℚ) = _
    rw [hn, hx, ← f2]
    push_cast
    rfl
  have hinc : inc = roundsUp rn neg (num * pow2Up (e - q) / (den * pow2Down (e - q)))
      (num * pow2Up (e - q) % (den * pow2Down (e - q))) (den * pow2Down (e - q)) := by
    rw [roundsUp_eq _ _ _ _ _ hb, ← hn, ← hrem]
  refine ⟨?_, ?_, hinc.symm, hn ▸ Int.natCast_nonneg _⟩
  · rw [hinc, hn, Int.cast_natCast]
    unfold roundAt
    generalize num * pow2Up (e - q) = a
    generalize den * pow2Down (e - q) = b
    cases h : roundsUp rn neg (a / b) (a % b) b <;> simp [bitNat, h]
  · rw [hrem]
    unfold roundAt
    generalize num * pow2Up (e - q) = a
    generalize den * pow2Down (e - q) = b at hb
    simp [hb.ne']

/-! ## The value of a pattern -/

/-- The value of a pattern from its sign, its magnitude and its scale. -/
theorem valueOf_parts (d : DWord) :
    valueOf d = (if signOf d then -1 else 1) * ((magOf d : ℚ) * 2 ^ scaleOf d) := by
  have h2 : (2 : ℚ) ≠ 0 := by norm_num
  unfold valueOf signOf magOf scaleOf fracOf
  by_cases h : expOf d = 0
  · have h' : (d.extractLsb' 52 11).toNat = 0 := h
    rw [if_pos h, if_pos h, if_pos h']
    norm_num
  · have h' : ¬ (d.extractLsb' 52 11).toNat = 0 := h
    rw [if_neg h, if_neg h, if_neg h']
    congr 1
    have e : ((expOf d : Int) - 1075) = ((d.extractLsb' 52 11).toNat : Int) - 1023 + -52 := by
      unfold expOf
      ring
    rw [e, zpow_add₀ h2]
    push_cast
    have : (2 : ℚ) ^ (-52 : Int) = 1 / 2 ^ 52 := by norm_num
    rw [this]
    field_simp
    norm_num

/-- The value is zero exactly where the magnitude is. -/
theorem valueOf_eq_zero (d : DWord) : valueOf d = 0 ↔ magOf d = 0 := by
  rw [valueOf_parts]
  have h2 : (2 : ℚ) ^ scaleOf d ≠ 0 := zpow_ne_zero _ (by norm_num)
  cases signOf d <;> simp [h2]

/-- The fields of a pattern built from a sign and 63 bits. -/
theorem pattern_fields (neg : Bool) {v : Nat} (hv : v < 2 ^ 63) :
    (signBit neg ||| BitVec.ofNat 64 v).getMsbD 0 = neg ∧
      ((signBit neg ||| BitVec.ofNat 64 v).extractLsb' 52 11).toNat = v / 2 ^ 52 ∧
      ((signBit neg ||| BitVec.ofNat 64 v).extractLsb' 0 52).toNat = v % 2 ^ 52 := by
  have hs : (signBit neg ||| BitVec.ofNat 64 v).toNat = (if neg then 2 ^ 63 else 0) + v := by
    rw [BitVec.toNat_or, BitVec.toNat_ofNat, Nat.mod_eq_of_lt (by omega)]
    cases neg with
    | false => simp [signBit]
    | true =>
      have : (signBit true).toNat = 2 ^ 63 := by decide
      rw [this, if_pos rfl]
      simpa using (Nat.two_pow_add_eq_or_of_lt hv 1).symm
  refine ⟨?_, ?_, ?_⟩
  · rw [BitVec.getMsbD_eq_getLsbD]
    simp only [BitVec.getLsbD, hs, Nat.testBit_eq_decide_div_mod_eq]
    cases neg <;> simp <;> omega
  · rw [BitVec.extractLsb'_toNat, hs, Nat.shiftRight_eq_div_pow]
    cases neg <;> simp <;> omega
  · rw [BitVec.extractLsb'_toNat, hs, Nat.shiftRight_eq_div_pow]
    cases neg <;> simp <;> omega

/-- A biased exponent and a fraction side by side. -/
theorem exponent_parts {E r : Nat} (hE : E ≤ 2046) (hr : r < 2 ^ 52) :
    E * 2 ^ 52 + r < 2 ^ 63 ∧ (E * 2 ^ 52 + r) / 2 ^ 52 = E ∧ (E * 2 ^ 52 + r) % 2 ^ 52 = r := by
  omega

/-- A kept integer times a power of two, where binary64 holds it: the pattern is finite and has that value. -/
theorem packDouble_value (neg : Bool) {kept : Nat} {q : Int} (hk : kept ≤ 2 ^ 53) (hq : -1074 ≤ q)
    (hy : (kept : ℚ) * 2 ^ q < 2 ^ (1024 : Int)) :
    isFinite (packDouble neg kept q) = true ∧ (packDouble neg kept q).getMsbD 0 = neg ∧
      |valueOf (packDouble neg kept q)| = (kept : ℚ) * 2 ^ q := by
  have h2 : (2 : ℚ) ≠ 0 := by norm_num
  unfold packDouble
  by_cases h0 : kept = 0
  · subst h0
    cases neg
    · simp [zero, signBit, isFinite, valueOf]
    · simp [zero, signBit, isFinite, valueOf]
  rw [if_neg h0]
  obtain ⟨l1, l2⟩ := log2_bounds (Nat.pos_of_ne_zero h0)
  have hkq : (0 : ℚ) < kept := by exact_mod_cast Nat.pos_of_ne_zero h0
  simp only
  by_cases ht : q + (Nat.log2 kept : Int) < -1022
  · rw [if_pos ht]
    obtain ⟨n, hn⟩ := Int.eq_ofNat_of_zero_le (show 0 ≤ q + 1074 by omega)
    have hup : pow2Up (q + 1074) = 2 ^ n := by unfold pow2Up; rw [hn]; rfl
    have hlt : kept * 2 ^ n < 2 ^ 52 := by
      have : ((kept * 2 ^ n : Nat) : ℚ) < ((2 ^ 52 : Nat) : ℚ) := by
        push_cast
        have e1 : (2 : ℚ) ^ n = 2 ^ (q + 1074) := by rw [hn]; exact (zpow_natCast 2 n).symm
        calc (kept : ℚ) * 2 ^ n = kept * 2 ^ (q + 1074) := by rw [e1]
          _ < 2 ^ ((Nat.log2 kept : Int) + 1) * 2 ^ (q + 1074) := mul_lt_mul_of_pos_right l2 (zpow_pos (by norm_num) _)
          _ = 2 ^ ((Nat.log2 kept : Int) + 1 + (q + 1074)) := (zpow_add₀ h2 _ _).symm
          _ ≤ 2 ^ (52 : Int) := zpow_le_zpow_right₀ (by norm_num) (by omega)
          _ = 2 ^ 52 := by norm_num
      exact_mod_cast this
    rw [hup]
    obtain ⟨f1, f2, f3⟩ := pattern_fields neg (v := kept * 2 ^ n) (by omega)
    have g2 : kept * 2 ^ n / 2 ^ 52 = 0 := Nat.div_eq_of_lt hlt
    have g3 : kept * 2 ^ n % 2 ^ 52 = kept * 2 ^ n := Nat.mod_eq_of_lt hlt
    refine ⟨?_, f1, ?_⟩
    · unfold isFinite
      rw [f2, g2]
      rfl
    · unfold valueOf
      rw [f1, f2, f3, g2, g3, if_pos rfl]
      have e1 : ((kept * 2 ^ n : Nat) : ℚ) * 2 ^ (1 - 1023 - 52 : Int) = kept * 2 ^ q := by
        push_cast
        rw [mul_assoc, ← zpow_natCast, ← zpow_add₀ h2]
        congr 2
        omega
      rw [e1, abs_mul, abs_of_nonneg (show (0 : ℚ) ≤ kept * 2 ^ q by positivity)]
      cases neg <;> simp
  · rw [if_neg ht]
    have hl : Nat.log2 kept ≤ 53 := by
      have : 2 ^ Nat.log2 kept ≤ 2 ^ 53 := le_trans (Nat.log2_self_le h0) hk
      exact (Nat.pow_le_pow_iff_right (by norm_num)).mp this
    have hdvd : 2 ^ Nat.log2 kept ∣ kept * 2 ^ 52 := by
      rcases Nat.lt_or_ge (Nat.log2 kept) 53 with h | h
      · exact Dvd.dvd.mul_left (pow_dvd_pow 2 (by omega)) _
      · have e1 : Nat.log2 kept = 53 := by omega
        have e2 : kept = 2 ^ 53 := le_antisymm hk (e1 ▸ Nat.log2_self_le h0)
        rw [e1, e2]
        exact Dvd.intro _ rfl
    obtain ⟨m, hm⟩ := hdvd
    have hm' : kept * 2 ^ 52 / 2 ^ Nat.log2 kept = m := by
      rw [hm]
      exact Nat.mul_div_cancel_left m (Nat.two_pow_pos _)
    have hlo : 2 ^ 52 ≤ m := by
      have : 2 ^ Nat.log2 kept * 2 ^ 52 ≤ 2 ^ Nat.log2 kept * m := by
        rw [← hm]
        exact Nat.mul_le_mul_right _ (Nat.log2_self_le h0)
      exact Nat.le_of_mul_le_mul_left this (Nat.two_pow_pos _)
    have hhi : m < 2 ^ 53 := by
      have : 2 ^ Nat.log2 kept * m < 2 ^ Nat.log2 kept * 2 ^ 53 := by
        rw [← hm]
        have := Nat.mul_lt_mul_of_pos_right (Nat.lt_log2_self (n := kept)) (show 0 < 2 ^ 52 by norm_num)
        calc kept * 2 ^ 52 < 2 ^ (Nat.log2 kept + 1) * 2 ^ 52 := this
          _ = 2 ^ Nat.log2 kept * 2 ^ 53 := by ring
      exact Nat.lt_of_mul_lt_mul_left this
    have htop : q + (Nat.log2 kept : Int) < 1024 := by
      have : (2 : ℚ) ^ (q + (Nat.log2 kept : Int)) < 2 ^ (1024 : Int) := by
        calc (2 : ℚ) ^ (q + (Nat.log2 kept : Int)) = 2 ^ (Nat.log2 kept : Int) * 2 ^ q := by
              rw [← zpow_add₀ h2]; congr 1; ring
          _ ≤ kept * 2 ^ q := mul_le_mul_of_nonneg_right l1 (zpow_pos (by norm_num) q).le
          _ < _ := hy
      exact (zpow_lt_zpow_iff_right₀ (by norm_num)).mp this
    obtain ⟨E, hE⟩ := Int.eq_ofNat_of_zero_le (show 0 ≤ q + (Nat.log2 kept : Int) + 1023 by omega)
    have hE' : (q + (Nat.log2 kept : Int) + 1023).toNat = E := by rw [hE]; rfl
    rw [hm', hE']
    have hEb : 1 ≤ E ∧ E ≤ 2046 := by
      have : (E : Int) = q + (Nat.log2 kept : Int) + 1023 := hE.symm
      omega
    obtain ⟨hv, g2, g3⟩ := exponent_parts hEb.2 (show m - 2 ^ 52 < 2 ^ 52 by omega)
    obtain ⟨f1, f2, f3⟩ := pattern_fields neg hv
    refine ⟨?_, f1, ?_⟩
    · unfold isFinite
      rw [f2, g2]
      simp
      omega
    · unfold valueOf
      rw [f1, f2, f3, g2, g3, if_neg (show ¬ E = 0 by omega)]
      have e0 : (E : Int) - 1023 = q + (Nat.log2 kept : Int) := by
        have : (E : Int) = q + (Nat.log2 kept : Int) + 1023 := hE.symm
        omega
      have e1 : (1 + ((m - 2 ^ 52 : Nat) : ℚ) / 2 ^ 52) * 2 ^ ((E : Int) - 1023) = kept * 2 ^ q := by
        have e2 : (kept : ℚ) * 2 ^ 52 = 2 ^ Nat.log2 kept * m := by exact_mod_cast hm
        rw [Nat.cast_sub hlo, e0, zpow_add₀ h2, zpow_natCast]
        push_cast
        field_simp
        linear_combination (-(1 : ℚ)) * e2
      rw [e1, abs_mul, abs_of_nonneg (show (0 : ℚ) ≤ kept * 2 ^ q by positivity)]
      cases neg <;> simp

/-! ## Rounding -/

/-- R344's table, as the model computes it. -/
theorem overflowValue_eq (fmt : FpFormat) (rn : BitVec 2) (neg : Bool) :
    overflowValue fmt rn neg = overflowResult fmt rn neg ∧
      isInf (overflowResult fmt rn neg) = !isFinite (overflowResult fmt rn neg) := by
  have h : ∀ (rn : BitVec 2) (neg : Bool), (overflowValue .double rn neg = overflowResult .double rn neg ∧
      isInf (overflowResult .double rn neg) = !isFinite (overflowResult .double rn neg)) ∧
      (overflowValue .single rn neg = overflowResult .single rn neg ∧
      isInf (overflowResult .single rn neg) = !isFinite (overflowResult .single rn neg)) := by decide
  cases fmt
  · exact (h rn neg).1
  · exact (h rn neg).2

/-- The test for an overflow, over naturals and over the rationals. -/
theorem overflow_iff (fmt : FpFormat) (kept : Nat) (q : Int) :
    kept * pow2Up q ≥ 2 ^ (fmt.emax + 1).toNat * pow2Down q ↔ (2 : ℚ) ^ (fmt.emax + 1) ≤ (kept : ℚ) * 2 ^ q := by
  have hD : (0 : ℚ) < pow2Down q := by exact_mod_cast pow2Down_pos q
  have he : (2 : ℚ) ^ (fmt.emax + 1) = ((2 ^ (fmt.emax + 1).toNat : Nat) : ℚ) := by
    obtain ⟨n, hn⟩ := Int.eq_ofNat_of_zero_le (show 0 ≤ fmt.emax + 1 by cases fmt <;> decide)
    rw [hn]
    push_cast
    exact zpow_natCast 2 n
  rw [two_zpow_split q, he, ← mul_div_assoc, le_div_iff₀ hD]
  exact_mod_cast Iff.rfl

/-- XX and UX, from flags and from propositions. -/
theorem rounding_flags (tiny inexact : Prop) [Decidable tiny] [Decidable inexact] :
    ((if decide inexact = true then fpXX else 0) ||| (if (decide tiny && decide inexact) = true then fpUX else 0)) =
      ((if inexact then fpXX else 0) ||| (if tiny ∧ inexact then fpUX else 0)) := by
  by_cases h1 : tiny <;> by_cases h2 : inexact <;> simp [h1, h2]

/-- R343 to R345: the rounding function rounds the exact value it is given. -/
theorem roundTo_roundsTo (fmt : FpFormat) (rn : BitVec 2) (neg : Bool) {num den : Nat} (hn : 0 < num) (hd : 0 < den) (e : Int) :
    RoundsTo fmt rn ((if neg then -1 else 1) * ((num : ℚ) / den * 2 ^ e)) (roundTo fmt rn neg num den e) := by
  have hp : (0 : ℚ) < (num : ℚ) / den * 2 ^ e := by
    have : (0 : ℚ) < num := by exact_mod_cast hn
    have : (0 : ℚ) < den := by exact_mod_cast hd
    positivity
  have habs : |(if neg then (-1 : ℚ) else 1) * ((num : ℚ) / den * 2 ^ e)| = (num : ℚ) / den * 2 ^ e := by
    rw [abs_mul, abs_of_pos hp]
    cases neg <;> simp
  have hneg : decide ((if neg then (-1 : ℚ) else 1) * ((num : ℚ) / den * 2 ^ e) < 0) = neg := by
    cases neg
    · simpa using hp.le
    · simpa using hp
  have hlog := floorLog2_eq hn hd e
  unfold RoundsTo roundTo
  simp only [habs, hneg, ← hlog]
  have hlo : (num : ℚ) / den * 2 ^ e < 2 ^ (floorLog2 num den e + 1) := by
    rw [hlog]
    exact_mod_cast Int.lt_zpow_succ_log_self (b := 2) (by norm_num) ((num : ℚ) / den * 2 ^ e)
  obtain ⟨q, hq⟩ : ∃ q, q = max (floorLog2 num den e) fmt.emin - (fmt.precision - 1) := ⟨_, rfl⟩
  rw [← hq]
  obtain ⟨c1, c2, c3, c4⟩ := roundAt_eq rn neg hd e q (num := num)
  have h2 : (2 : ℚ) ≠ 0 := by norm_num
  have hfmt : fmt.precision ≤ 53 ∧ -1074 ≤ fmt.emin - (fmt.precision - 1) ∧ fmt.emax + 1 ≤ 1024 ∧ 0 ≤ fmt.precision := by
    cases fmt <;> decide
  have hkept : (roundAt rn neg num den e q).kept ≤ 2 ^ 53 := by
    have h1 : (⌊(num : ℚ) / den * 2 ^ e / 2 ^ q⌋ : ℚ) < 2 ^ (53 : Int) := by
      calc (⌊(num : ℚ) / den * 2 ^ e / 2 ^ q⌋ : ℚ) ≤ (num : ℚ) / den * 2 ^ e / 2 ^ q := Int.floor_le _
        _ < 2 ^ (floorLog2 num den e + 1) / 2 ^ q := div_lt_div_of_pos_right hlo (zpow_pos (by norm_num) q)
        _ = 2 ^ (floorLog2 num den e + 1 - q) := (zpow_sub₀ h2 _ _).symm
        _ ≤ 2 ^ (53 : Int) := zpow_le_zpow_right₀ (by norm_num) (by omega)
    have h3 : ⌊(num : ℚ) / den * 2 ^ e / 2 ^ q⌋ < 2 ^ 53 := by exact_mod_cast h1
    have h4 : ((roundAt rn neg num den e q).kept : ℚ) ≤ 2 ^ 53 := by
      rw [c1]
      have h5 : ((⌊(num : ℚ) / den * 2 ^ e / 2 ^ q⌋ + 1 : Int) : ℚ) ≤ ((2 ^ 53 : Int) : ℚ) := by exact_mod_cast h3
      push_cast at h5
      refine le_trans ?_ h5
      gcongr
      split <;> norm_num
    exact_mod_cast h4
  rw [← c1]
  by_cases ho : (2 : ℚ) ^ (fmt.emax + 1) ≤ ((roundAt rn neg num den e q).kept : ℚ) * 2 ^ q
  · rw [if_pos ho, if_pos ((overflow_iff fmt _ q).mpr ho)]
    obtain ⟨o1, o2⟩ := overflowValue_eq fmt rn neg
    refine ⟨o1, rfl, rfl, ?_⟩
    show isInf (overflowValue fmt rn neg) = !isFinite (overflowValue fmt rn neg)
    rw [o1, o2]
  · rw [if_neg ho, if_neg (fun h => ho ((overflow_iff fmt _ q).mp h))]
    have hy : ((roundAt rn neg num den e q).kept : ℚ) * 2 ^ q < 2 ^ (1024 : Int) :=
      lt_of_lt_of_le (not_le.mp ho) (zpow_le_zpow_right₀ (by norm_num) hfmt.2.2.1)
    obtain ⟨p1, p2, p3⟩ := packDouble_value neg hkept (by omega) hy
    refine ⟨p1, p2, p3, c2, c3, ?_⟩
    show _ ||| _ = _
    rw [c2]
    exact rounding_flags _ _

end Sys2Proof.Machine
end

