-- ==== Sys2Proof/Laws/Step.lean ====
section
/-! SUPPORT. What one turn of the loop and one step of the Dispatcher can do, said once: the cases that every statement about a
step goes through. -/

namespace Sys2Proof.Machine

/-- The four bytes a fetch reads are the word, the most significant first (20_memory.md R62, R70). -/
theorem lowWord_readBytes_four (m : Memory) (a : Nat) :
    lowWord (readBytes m a 4) = readByte m a ++ readByte m (a + 1) ++ readByte m (a + 2) ++ readByte m (a + 3) := by
  have h := readBytes_four m a
  unfold lowWord
  exact h

/-- The fetch: an alignment violation without a call, a read failure, or the word in the image the call meets. -/
theorem fetch_cases (s : State) :
    (s.pc.toNat % 4 ≠ 0 ∧ fetch s = (s, .error (.alignment .fetch s.pc .word))) ∨
    (s.pc.toNat % 4 = 0 ∧ s.atCall.port.answers .read s.pc.toNat 4 = false ∧
      fetch s = (s.atCall, .error (.memoryFailure .read s.pc .word))) ∨
    (s.pc.toNat % 4 = 0 ∧ s.atCall.port.answers .read s.pc.toNat 4 = true ∧
      fetch s = (s.atCall, .ok (readByte s.atCall.mem s.pc.toNat ++ readByte s.atCall.mem (s.pc.toNat + 1) ++
        readByte s.atCall.mem (s.pc.toNat + 2) ++ readByte s.atCall.mem (s.pc.toNat + 3)))) := by
  have ha := aligned_word_iff s.pc
  unfold fetch
  rcases memRead_cases s s.pc .word with ⟨h, h1, h2⟩ | ⟨h, h1⟩ | ⟨h, h1, h2⟩ <;> rw [h1]
  · exact .inr (.inr ⟨ha.mp h1, h2, by rw [if_neg (by decide), h, ← lowWord_readBytes_four]; rfl⟩)
  · exact .inl ⟨fun e => absurd (ha.mpr e) (by simp [h1]), by simp⟩
  · exact .inr (.inl ⟨ha.mp h1, h2, by rw [if_neg (by decide), h]⟩)

/-- One step of the Dispatcher: the fetch fails, the word decodes to nothing, or the instruction runs; each in the state the fetch
has left. -/
theorem dispatchStep_cases (s : State) :
    ∃ t, (t = s ∨ t = s.atCall) ∧
      ((∃ o, fetch s = (t, .error o) ∧ dispatchStep s = .next (t.failed o)) ∨
        (∃ w e, fetch s = (t, .ok w) ∧ decode w = .error e ∧ dispatchStep s = .next (t.reported (unknownTag e) w)) ∨
        (∃ w i, fetch s = (t, .ok w) ∧ decode w = .ok i ∧ dispatchStep s = exec i t)) := by
  unfold dispatchStep
  rcases fetch_cases s with ⟨-, h⟩ | ⟨-, -, h⟩ | ⟨-, -, h⟩ <;> rw [h]
  · exact ⟨s, .inl rfl, .inl ⟨_, rfl, rfl⟩⟩
  · exact ⟨s.atCall, .inr rfl, .inl ⟨_, rfl, rfl⟩⟩
  · refine ⟨s.atCall, .inr rfl, .inr ?_⟩
    generalize readByte s.atCall.mem s.pc.toNat ++ readByte s.atCall.mem (s.pc.toNat + 1) ++
      readByte s.atCall.mem (s.pc.toNat + 2) ++ readByte s.atCall.mem (s.pc.toNat + 3) = w
    cases hd : decode w with
    | error e => exact .inl ⟨w, e, rfl, hd, by simp [hd, reportInvalid_eq]⟩
    | ok i => exact .inr ⟨w, i, rfl, hd, by simp [hd]⟩

/-- The Driver's act on a next state. -/
theorem settleResult_next (s : State) : settleResult (.next s) = .next s.settle := rfl

/-- One turn of the loop: stopped, disconnected, or a step of the Dispatcher after the tick. -/
theorem step_cases (s : State) :
    (s.running = false ∧ step s = .fault .loopStopped) ∨
    (s.running = true ∧ s.atCall.port.hooked = false ∧ step s = .next { s.atCall with running := false }) ∨
    (s.running = true ∧ s.atCall.port.hooked = true ∧ step s = settleResult (dispatchStep s.atCall.tick)) := by
  unfold step driveOnce
  cases h : s.running with
  | false => exact .inl ⟨rfl, by simp⟩
  | true =>
    cases hp : s.atCall.port.hooked with
    | false => exact .inr (.inl ⟨rfl, rfl, by simp⟩)
    | true => exact .inr (.inr ⟨rfl, rfl, by simp⟩)

/-- `settle` changes `running` and nothing else. -/
theorem settle_fields (s : State) : s.settle = { s with running := s.settle.running } := by
  cases s with
  | mk gprs fprs cr lr ctr pc xer msr srr0 srr1 sprs tb fpscr lastInvalid running mem port traffic params tickCount outcome events =>
    cases outcome with
    | none => rfl
    | some o => by_cases h : stopsLoop params.haltOnInvalid o = true <;> simp [State.settle, h]

/-- What `settle` leaves in `running`. -/
theorem settle_running (s : State) :
    s.settle.running = (s.running && !(match s.outcome with
      | some o => stopsLoop s.params.haltOnInvalid o
      | none => false)) := by
  unfold State.settle
  cases s.outcome with
  | none => simp
  | some o => by_cases h : stopsLoop s.params.haltOnInvalid o = true <;> simp [h]

/-- The tick touches the time base and the counter alone. -/
theorem tick_fields (s : State) : s.tick = { s with tb := s.tick.tb, tickCount := s.tick.tickCount } := rfl

/-- What placing a word changes. -/
theorem placeWord_fields (s : State) (w : Word) :
    placeWord s w = { s with
      running := true
      pc := s.pc &&& 0xFFFFFFFC
      port := s.port.withWordAt (s.pc &&& 0xFFFFFFFC).toNat
      traffic := { } :: { } :: s.traffic
      mem := writeBytes s.mem (s.pc &&& 0xFFFFFFFC).toNat 4 (asPort w) } := rfl

end Sys2Proof.Machine
end

