-- ==== Sys2Proof/Machine/HostSurface.lean ====
section
/-! DEFINITION. What the host and the target do to the machine between steps (10_state.md R43; 40_dispatcher.md R140, R142;
20_memory.md R74; 70_reset_and_hazards.md R583). These are no part of the step. -/

namespace Sys2Proof.Machine

/-- A move of the host or of the target. Every field of the register file but last_invalid is host-writable (R43). -/
inductive HostMove where
  /-- attach: the Register File and the port are constructed (R580), over an image and with a choice of the parameters. -/
  | attach (mem : Memory) (port : Port) (params : Params)
  /-- detach: the session ends; the registers are destroyed and the port is not hooked (R583). -/
  | detach
  /-- start (R142). -/
  | start
  /-- stop (R140, R142). -/
  | stop
  | setGpr (r : GprNum) (v : Word)
  | setFpr (r : FprNum) (v : DWord)
  | setCr (v : Word)
  | setPc (v : Word)
  | setMsr (v : Word)
  | setTb (v : DWord)
  | setFpscr (v : Word)
  /-- XER, LR, CTR, SRR0, SRR1 or a cell, by its number; the time base has a move of its own. -/
  | setSpr (n : SprNum) (v : Word)
  /-- P5, a host option (R139). -/
  | setHaltOnInvalid (b : Bool)
  /-- The target connects or disconnects (R79). -/
  | connect (hooked : Bool)
  /-- The target's address ranges change (R72). -/
  | setRanges (ranges : List PortRange)
  /-- The host loads, or another process writes, one byte of the image (R74). -/
  | writeImage (a : Word) (b : Byte)
  /-- What others will do to the port before each of the coming calls (R74, R592 (c)). -/
  | schedule (traffic : List Interference)
deriving DecidableEq, Repr

/-- The state after a move. -/
def applyHost (m : HostMove) (s : State) : State :=
  match m with
  | .attach mem port params => { State.reset with mem := mem, port := port, params := params }
  | .detach => { State.reset with port := { hooked := false, ranges := [] } }
  | .start => { s with running := true }
  | .stop => { s with running := false }
  | .setGpr r v => s.setGpr r v
  | .setFpr r v => s.setFpr r v
  | .setCr v => { s with cr := v }
  | .setPc v => { s with pc := v }
  | .setMsr v => { s with msr := v }
  | .setTb v => { s with tb := v }
  | .setFpscr v => s.setFpscr v
  | .setSpr n v => (s.writeSpr n v).getD s
  | .setHaltOnInvalid b => { s with params := { s.params with haltOnInvalid := b } }
  | .connect hooked => { s with port := { s.port with hooked := hooked } }
  | .setRanges ranges => { s with port := { s.port with ranges := ranges } }
  | .writeImage a b => { s with mem := writeByte s.mem a.toNat b }
  | .schedule traffic => { s with traffic := traffic }

/-- The host's single step (R142, log 2): the Dispatcher once, without the Driver. -/
def singleStep (s : State) : Result := dispatchStep s

end Sys2Proof.Machine
end

