-- ==== Sys2Proof/Tests/Slice0.lean ====
section
/-! SUPPORT. Tests: the checks of WellFormed refuse, words written out from the spec decode, one step of the spec's own vectors
ends as the spec says, and for every statement with hypotheses a state and operands that meet them. -/

namespace Sys2Proof.Tests

open Sys2Proof.Machine

/-- Whether WellFormed refuses every term of a list. -/
def refusesAll (l : List Instr) : Bool := l.all fun i => !i.wellFormed

/-- Whether every word of a list decodes to the instruction beside it, in the form WellFormed accepts. -/
def decodesAll (l : List (Word × Instr)) : Bool :=
  l.all fun c => match decode c.1 with
    | .ok i => i == c.2 && i.wellFormed
    | .error _ => false

/-- One cell of a vector's start or end state, in the spec's notation. -/
inductive Cell where
  | gpr (r : GprNum) (v : Word)
  | fpr (r : FprNum) (v : DWord)
  | cr (v : Word)
  | lr (v : Word)
  | ctr (v : Word)
  | pc (v : Word)
  | xer (v : Word)
  | msr (v : Word)
  | srr0 (v : Word)
  | srr1 (v : Word)
  | fpscr (v : Word)
  | tb (v : DWord)
  | cell (n : SprNum) (v : Word)
  | mem (n a : Nat) (v : DWord)
  | invalid (tag : Tag) (a w : Word)

/-- The state with a cell set. -/
def Cell.set (s : State) : Cell → State
  | .gpr r v => s.setGpr r v
  | .fpr r v => s.setFpr r v
  | .cr v => { s with cr := v }
  | .lr v => { s with lr := v }
  | .ctr v => { s with ctr := v }
  | .pc v => { s with pc := v }
  | .xer v => { s with xer := v }
  | .msr v => { s with msr := v }
  | .srr0 v => { s with srr0 := v }
  | .srr1 v => { s with srr1 := v }
  | .fpscr v => { s with fpscr := v }
  | .tb v => { s with tb := v }
  | .cell n v => s.setSprCell n v
  | .mem n a v => { s with mem := writeBytes s.mem a n v }
  | .invalid tag a w => { s with lastInvalid := some ⟨tag, a, w⟩ }

/-- Whether a state has the cell's value. -/
def Cell.holds (s : State) : Cell → Bool
  | .gpr r v => s.gpr r == v
  | .fpr r v => s.fpr r == v
  | .cr v => s.cr == v
  | .lr v => s.lr == v
  | .ctr v => s.ctr == v
  | .pc v => s.pc == v
  | .xer v => s.xer == v
  | .msr v => s.msr == v
  | .srr0 v => s.srr0 == v
  | .srr1 v => s.srr1 == v
  | .fpscr v => s.fpscr == v
  | .tb v => s.tb == v
  | .cell n v => s.sprCell n == v
  | .mem n a v => readBytes s.mem a n == v
  | .invalid tag a w => s.lastInvalid == some ⟨tag, a, w⟩

/-- The start state of 95_test_vectors.md section 1: PC 0x1000, everything else 0, and the port of the vectors. -/
def vectorStart : State :=
  { State.reset with
    pc := 0x1000
    port := { hooked := true, ranges := [⟨0, 0x10000, true, true⟩, ⟨0xFFF00000, 0x1000, true, true⟩, ⟨0xFFFFFF00, 0x100, true, true⟩] } }

/-- Whether one step of the Dispatcher, from the start state with the cells set and the word at PC, ends with the outcome of that
code and the cells given. -/
def ends (w : Word) (start : List Cell) (code : Nat) (finish : List Cell) : Bool :=
  let s := start.foldl Cell.set vectorStart
  match dispatchStep { s with mem := writeBytes s.mem s.pc.toNat 4 (asPort w) } with
  | .next t => t.outcome.map StepOutcome.code == some code && finish.all (Cell.holds t)
  | .fault _ => false
  | .refused _ => false


/-! ## Well-formedness: one ill-formed term for each check, refused -/

theorem test_wellFormed_refuses_fixed_arithmetic : refusesAll [
    .neg 0 0 1 false false, .subfze 0 0 1 false false, .addze 0 0 1 false false, .subfme 0 0 1 false false,
    .addme 0 0 1 false false] = true := by decide

theorem test_wellFormed_refuses_fixed_logical : refusesAll [
    .cmpli 0 1 false 0 0, .cmpi 0 1 false 0 0, .cmp 0 1 false 0 0 0, .cmp 0 0 false 0 0 1,
    .cntlzw 0 0 1 false, .cmpl 0 1 false 0 0 0, .cmpl 0 0 false 0 0 1, .extsh 0 0 1 false,
    .extsb 0 0 1 false] = true := by decide

theorem test_wellFormed_refuses_load_store : refusesAll [
    .lwzx 0 0 0 1, .lwzux 0 0 0 1, .lbzx 0 0 0 1, .lbzux 0 0 0 1,
    .stwx 0 0 0 1, .stwux 0 0 0 1, .stbx 0 0 0 1, .stbux 0 0 0 1,
    .lhzx 0 0 0 1, .lhzux 0 0 0 1, .lhax 0 0 0 1, .lhaux 0 0 0 1,
    .sthx 0 0 0 1, .sthux 0 0 0 1, .lswx 0 0 0 1, .lwbrx 0 0 0 1,
    .lswi 0 0 0 1, .stswx 0 0 0 1, .stwbrx 0 0 0 1, .stswi 0 0 0 1,
    .lhbrx 0 0 0 1, .sthbrx 0 0 0 1] = true := by decide

theorem test_wellFormed_refuses_moves : refusesAll [
    .mfspr 0 0 1, .mftb 0 0 1, .mtspr 0 0 1, .mcrxr 0 1 0 0 0,
    .mcrxr 0 0 1 0 0, .mcrxr 0 0 0 1 0, .mcrxr 0 0 0 0 1] = true := by decide

theorem test_wellFormed_refuses_float_arithmetic_a : refusesAll [
    .fdivs 0 0 0 1 false, .fsubs 0 0 0 1 false, .fadds 0 0 0 1 false, .fres 0 1 0 0 false,
    .fres 0 0 0 1 false, .fmuls 0 0 1 0 false, .fdiv 0 0 0 1 false, .fsub 0 0 0 1 false,
    .fadd 0 0 0 1 false, .fmul 0 0 1 0 false, .frsqrte 0 1 0 0 false, .frsqrte 0 0 0 1 false,
    .fcmpu 0 1 0 0 0, .fcmpu 0 0 0 0 1, .frsp 0 1 0 false, .fctiw 0 1 0 false,
    .fctiwz 0 1 0 false, .fcmpo 0 1 0 0 0, .fcmpo 0 0 0 0 1, .mtfsb1 0 1 0 false,
    .mtfsb1 0 0 1 false, .fneg 0 1 0 false, .mcrfs 0 1 0 0 0 0, .mcrfs 0 0 0 1 0 0] = true := by decide

theorem test_wellFormed_refuses_float_arithmetic_b : refusesAll [
    .mcrfs 0 0 0 0 1 0, .mcrfs 0 0 0 0 0 1, .mtfsb0 0 1 0 false, .mtfsb0 0 0 1 false,
    .fmr 0 1 0 false, .mtfsfi 0 1 0 0 0 false, .mtfsfi 0 0 1 0 0 false, .mtfsfi 0 0 0 0 1 false,
    .fnabs 0 1 0 false, .fabs 0 1 0 false, .mffs 0 1 0 false, .mffs 0 0 1 false,
    .mtfsf 1 0 0 0 false, .mtfsf 0 0 1 0 false] = true := by decide

theorem test_wellFormed_refuses_float_load_store : refusesAll [
    .lfsx 0 0 0 1, .lfsux 0 0 0 1, .lfdx 0 0 0 1, .lfdux 0 0 0 1,
    .stfsx 0 0 0 1, .stfsux 0 0 0 1, .stfdx 0 0 0 1, .stfdux 0 0 0 1,
    .stfiwx 0 0 0 1] = true := by decide

theorem test_wellFormed_refuses_branch : refusesAll [
    .mcrf 0 1 0 0 0 0, .mcrf 0 0 0 1 0 0, .mcrf 0 0 0 0 1 0, .mcrf 0 0 0 0 0 1,
    .bclr 0 0 1 false, .crnor 0 0 0 1, .crandc 0 0 0 1, .crxor 0 0 0 1,
    .crnand 0 0 0 1, .crand 0 0 0 1, .creqv 0 0 0 1, .crorc 0 0 0 1,
    .cror 0 0 0 1, .bcctr 0 0 1 false, .mfcr 0 1 0 0, .mfcr 0 0 1 0,
    .mfcr 0 0 0 1, .mtcrf 0 1 0 0 0, .mtcrf 0 0 0 1 0, .mtcrf 0 0 0 0 1] = true := by decide

theorem test_wellFormed_refuses_system_a : refusesAll [
    .sc 1, .rfi 1 0 0 0, .rfi 0 1 0 0, .rfi 0 0 1 0,
    .rfi 0 0 0 1, .isync 1 0 0 0, .isync 0 1 0 0, .isync 0 0 1 0,
    .isync 0 0 0 1, .dcbst 1 0 0 0, .dcbst 0 0 0 1, .mfmsr 0 1 0 0,
    .mfmsr 0 0 1 0, .mfmsr 0 0 0 1, .dcbf 1 0 0 0, .dcbf 0 0 0 1,
    .mtmsr 0 1 0 0, .mtmsr 0 0 1 0, .mtmsr 0 0 0 1, .dcbtst 1 0 0 0,
    .dcbtst 0 0 0 1, .dcbt 1 0 0 0, .dcbt 0 0 0 1, .dcbi 1 0 0 0] = true := by decide

theorem test_wellFormed_refuses_system_b : refusesAll [
    .dcbi 0 0 0 1, .sync 1 0 0 0, .sync 0 1 0 0, .sync 0 0 1 0,
    .sync 0 0 0 1, .eieio 1 0 0 0, .eieio 0 1 0 0, .eieio 0 0 1 0,
    .eieio 0 0 0 1, .icbi 1 0 0 0, .icbi 0 0 0 1, .dcbz 1 0 0 0,
    .dcbz 0 0 0 1] = true := by decide

theorem test_wellFormed_refuses_unimplemented : refusesAll [
    .tw 0 0 0 1, .lwarx 0 0 0 1, .stwcxDot 0 0 0 1, .mtsr 0 1 0 0 0,
    .mtsr 0 0 0 1 0, .mtsr 0 0 0 0 1, .mtsrin 0 1 0 0, .mtsrin 0 0 0 1,
    .tlbie 1 0 0 0, .tlbie 0 1 0 0, .tlbie 0 0 0 1, .tlbsync 1 0 0 0,
    .tlbsync 0 1 0 0, .tlbsync 0 0 1 0, .tlbsync 0 0 0 1, .mfsr 0 1 0 0 0,
    .mfsr 0 0 0 1 0, .mfsr 0 0 0 0 1, .mfsrin 0 1 0 0, .mfsrin 0 0 0 1] = true := by decide

/-! ## Decoding: for every constructor a word written out field by field from its row, operands all different -/

/-- Encodings of the rows of 41_*.md (30_encoding.md R97 to R101). -/
theorem test_decode_fixed_arithmetic_a : decodesAll [
    (0b000111_10001_11110_1000101001010001, .mulli 17 30 35409),
    (0b001000_11110_01001_1000101001010001, .subfic 30 9 35409),
    (0b001100_01101_00011_1000101001010001, .addic 13 3 35409),
    (0b001101_00011_10001_1000101001010001, .addicDot 3 17 35409),
    (0b001110_10001_11110_1000101001010001, .addi 17 30 35409),
    (0b001111_11110_01001_1000101001010001, .addis 30 9 35409),
    (0b011111_00011_10001_11110_1_000001000_0, .subfc 3 17 30 true false),
    (0b011111_10001_11110_01001_0_000001010_1, .addc 17 30 9 false true),
    (0b011111_11110_01001_10100_0000001011_1, .mulhwu 30 9 20 true),
    (0b011111_10100_01101_00011_1_000101000_0, .subf 20 13 3 true false),
    (0b011111_11110_01001_10100_0001001011_1, .mulhw 30 9 20 true),
    (0b011111_00011_10001_00000_1_001101000_0, .neg 3 17 0 true false),
    (0b011111_01001_10100_01101_0_010001000_1, .subfe 9 20 13 false true),
    (0b011111_10100_01101_00011_1_010001010_0, .adde 20 13 3 true false),
    (0b011111_10100_01101_00000_1_011001000_0, .subfze 20 13 0 true false),
    (0b011111_01101_00011_00000_0_011001010_1, .addze 13 3 0 false true)] = true := by decide

/-- Encodings of the rows of 41_*.md (30_encoding.md R97 to R101). -/
theorem test_decode_fixed_arithmetic_b : decodesAll [
    (0b011111_11110_01001_00000_1_011101000_0, .subfme 30 9 0 true false),
    (0b011111_01001_10100_00000_0_011101010_1, .addme 9 20 0 false true),
    (0b011111_10100_01101_00011_1_011101011_0, .mullw 20 13 3 true false),
    (0b011111_11110_01001_10100_1_100001010_0, .add 30 9 20 true false),
    (0b011111_01101_00011_10001_0_111001011_1, .divwu 13 3 17 false true),
    (0b011111_01001_10100_01101_0_111101011_1, .divw 9 20 13 false true)] = true := by decide

/-- Encodings of the rows of 42_*.md (30_encoding.md R97 to R101). -/
theorem test_decode_fixed_logical_a : decodesAll [
    (0b001010_101_0_1_01001_1000101001010001, .cmpli 5 0 true 9 35409),
    (0b001011_011_0_0_10100_1000101001010001, .cmpi 3 0 false 20 35409),
    (0b010100_10001_11110_01001_10100_01101_0, .rlwimi 17 30 9 20 13 false),
    (0b010101_11110_01001_10100_01101_00011_1, .rlwinm 30 9 20 13 3 true),
    (0b010111_01001_10100_01101_00011_10001_0, .rlwnm 9 20 13 3 17 false),
    (0b011000_10100_01101_1000101001010001, .ori 20 13 35409),
    (0b011001_01101_00011_1000101001010001, .oris 13 3 35409),
    (0b011010_00011_10001_1000101001010001, .xori 3 17 35409),
    (0b011011_10001_11110_1000101001010001, .xoris 17 30 35409),
    (0b011100_11110_01001_1000101001010001, .andiDot 30 9 35409),
    (0b011101_01001_10100_1000101001010001, .andisDot 9 20 35409),
    (0b011111_011_0_0_10100_01101_0000000000_0, .cmp 3 0 false 20 13 0),
    (0b011111_00011_10001_11110_0000011000_1, .slw 3 17 30 true),
    (0b011111_10001_11110_00000_0000011010_0, .cntlzw 17 30 0 false),
    (0b011111_11110_01001_10100_0000011100_1, .and 30 9 20 true),
    (0b011111_101_0_1_01001_10100_0000100000_0, .cmpl 5 0 true 9 20 0)] = true := by decide

/-- Encodings of the rows of 42_*.md (30_encoding.md R97 to R101). -/
theorem test_decode_fixed_logical_b : decodesAll [
    (0b011111_10001_11110_01001_0000111100_0, .andc 17 30 9 false),
    (0b011111_11110_01001_10100_0001111100_1, .nor 30 9 20 true),
    (0b011111_01101_00011_10001_0100011100_0, .eqv 13 3 17 false),
    (0b011111_11110_01001_10100_0100111100_1, .xor 30 9 20 true),
    (0b011111_11110_01001_10100_0110011100_1, .orc 30 9 20 true),
    (0b011111_10100_01101_00011_0110111100_1, .or 20 13 3 true),
    (0b011111_11110_01001_10100_0111011100_1, .nand 30 9 20 true),
    (0b011111_11110_01001_10100_1000011000_1, .srw 30 9 20 true),
    (0b011111_10001_11110_01001_1100011000_0, .sraw 17 30 9 false),
    (0b011111_11110_01001_10100_1100111000_1, .srawi 30 9 20 true),
    (0b011111_01101_00011_00000_1110011010_0, .extsh 13 3 0 false),
    (0b011111_00011_10001_00000_1110111010_1, .extsb 3 17 0 true)] = true := by decide

/-- Encodings of the rows of 43_*.md (30_encoding.md R97 to R101). -/
theorem test_decode_load_store_a : decodesAll [
    (0b011111_01101_00011_10001_0000010111_0, .lwzx 13 3 17 0),
    (0b011111_00011_10001_11110_0000110111_0, .lwzux 3 17 30 0),
    (0b011111_01101_00011_10001_0001010111_0, .lbzx 13 3 17 0),
    (0b011111_10001_11110_01001_0001110111_0, .lbzux 17 30 9 0),
    (0b011111_11110_01001_10100_0010010111_0, .stwx 30 9 20 0),
    (0b011111_01001_10100_01101_0010110111_0, .stwux 9 20 13 0),
    (0b011111_10001_11110_01001_0011010111_0, .stbx 17 30 9 0),
    (0b011111_10001_11110_01001_0011110111_0, .stbux 17 30 9 0),
    (0b011111_10100_01101_00011_0100010111_0, .lhzx 20 13 3 0),
    (0b011111_10001_11110_01001_0100110111_0, .lhzux 17 30 9 0),
    (0b011111_10100_01101_00011_0101010111_0, .lhax 20 13 3 0),
    (0b011111_00011_10001_11110_0101110111_0, .lhaux 3 17 30 0),
    (0b011111_10001_11110_01001_0110010111_0, .sthx 17 30 9 0),
    (0b011111_01001_10100_01101_0110110111_0, .sthux 9 20 13 0),
    (0b011111_01101_00011_10001_1000010101_0, .lswx 13 3 17 0),
    (0b011111_00011_10001_11110_1000010110_0, .lwbrx 3 17 30 0)] = true := by decide

/-- Encodings of the rows of 43_*.md (30_encoding.md R97 to R101). -/
theorem test_decode_load_store_b : decodesAll [
    (0b011111_00011_10001_11110_1001010101_0, .lswi 3 17 30 0),
    (0b011111_01101_00011_10001_1010010101_0, .stswx 13 3 17 0),
    (0b011111_00011_10001_11110_1010010110_0, .stwbrx 3 17 30 0),
    (0b011111_01001_10100_01101_1011010101_0, .stswi 9 20 13 0),
    (0b011111_00011_10001_11110_1100010110_0, .lhbrx 3 17 30 0),
    (0b011111_10100_01101_00011_1110010110_0, .sthbrx 20 13 3 0),
    (0b100000_10100_01101_1000101001010001, .lwz 20 13 35409),
    (0b100001_01101_00011_1000101001010001, .lwzu 13 3 35409),
    (0b100010_00011_10001_1000101001010001, .lbz 3 17 35409),
    (0b100011_10001_11110_1000101001010001, .lbzu 17 30 35409),
    (0b100100_11110_01001_1000101001010001, .stw 30 9 35409),
    (0b100101_01001_10100_1000101001010001, .stwu 9 20 35409),
    (0b100110_10100_01101_1000101001010001, .stb 20 13 35409),
    (0b100111_01101_00011_1000101001010001, .stbu 13 3 35409),
    (0b101000_00011_10001_1000101001010001, .lhz 3 17 35409),
    (0b101001_10001_11110_1000101001010001, .lhzu 17 30 35409)] = true := by decide

/-- Encodings of the rows of 43_*.md (30_encoding.md R97 to R101). -/
theorem test_decode_load_store_c : decodesAll [
    (0b101010_11110_01001_1000101001010001, .lha 30 9 35409),
    (0b101011_01001_10100_1000101001010001, .lhau 9 20 35409),
    (0b101100_10100_01101_1000101001010001, .sth 20 13 35409),
    (0b101101_01101_00011_1000101001010001, .sthu 13 3 35409),
    (0b101110_00011_10001_1000101001010001, .lmw 3 17 35409),
    (0b101111_10001_11110_1000101001010001, .stmw 17 30 35409)] = true := by decide

/-- Encodings of the rows of 44_*.md (30_encoding.md R97 to R101). -/
theorem test_decode_moves : decodesAll [
    (0b011111_01001_1111101000_0101010011_0, .mfspr 9 287 0),
    (0b011111_01101_1111101000_0101110011_0, .mftb 13 287 0),
    (0b011111_00011_1111101000_0111010011_0, .mtspr 3 287 0),
    (0b011111_011_00_00000_00000_1000000000_0, .mcrxr 3 0 0 0 0)] = true := by decide

/-- Encodings of the rows of 45_*.md (30_encoding.md R97 to R101). -/
theorem test_decode_float_arithmetic_a : decodesAll [
    (0b111011_10100_01101_00011_00000_10010_0, .fdivs 20 13 3 0 false),
    (0b111011_01101_00011_10001_00000_10100_1, .fsubs 13 3 17 0 true),
    (0b111011_00011_10001_11110_00000_10101_0, .fadds 3 17 30 0 false),
    (0b111011_10001_00000_11110_00000_11000_1, .fres 17 0 30 0 true),
    (0b111011_11110_01001_00000_10100_11001_0, .fmuls 30 9 0 20 false),
    (0b111011_01001_10100_01101_00011_11100_1, .fmsubs 9 20 13 3 true),
    (0b111011_10100_01101_00011_10001_11101_0, .fmadds 20 13 3 17 false),
    (0b111011_01101_00011_10001_11110_11110_1, .fnmsubs 13 3 17 30 true),
    (0b111011_00011_10001_11110_01001_11111_0, .fnmadds 3 17 30 9 false),
    (0b111111_10001_11110_01001_00000_10010_1, .fdiv 17 30 9 0 true),
    (0b111111_11110_01001_10100_00000_10100_0, .fsub 30 9 20 0 false),
    (0b111111_01001_10100_01101_00000_10101_1, .fadd 9 20 13 0 true),
    (0b111111_10100_01101_00000_00011_11001_0, .fmul 20 13 0 3 false),
    (0b111111_01101_00000_00011_00000_11010_1, .frsqrte 13 0 3 0 true),
    (0b111111_00011_10001_11110_01001_11100_0, .fmsub 3 17 30 9 false),
    (0b111111_10001_11110_01001_10100_11101_1, .fmadd 17 30 9 20 true)] = true := by decide

/-- Encodings of the rows of 45_*.md (30_encoding.md R97 to R101). -/
theorem test_decode_float_arithmetic_b : decodesAll [
    (0b111111_11110_01001_10100_01101_11110_0, .fnmsub 30 9 20 13 false),
    (0b111111_01001_10100_01101_00011_11111_1, .fnmadd 9 20 13 3 true),
    (0b111111_011_00_10100_01101_0000000000_0, .fcmpu 3 0 20 13 0),
    (0b111111_01101_00000_00011_0000001100_0, .frsp 13 0 3 false),
    (0b111111_00011_00000_10001_0000001110_1, .fctiw 3 0 17 true),
    (0b111111_10001_00000_11110_0000001111_0, .fctiwz 17 0 30 false),
    (0b111111_110_00_11110_01001_0000100000_0, .fcmpo 6 0 30 9 0),
    (0b111111_01001_00000_00000_0000100110_0, .mtfsb1 9 0 0 false),
    (0b111111_10100_00000_01101_0000101000_1, .fneg 20 0 13 true),
    (0b111111_110_00_101_00_00000_0001000000_0, .mcrfs 6 0 5 0 0 0),
    (0b111111_00011_00000_00000_0001000110_1, .mtfsb0 3 0 0 true),
    (0b111111_10001_00000_11110_0001001000_0, .fmr 17 0 30 false),
    (0b111111_110_00_00000_1011_0_0010000110_1, .mtfsfi 6 0 0 11 0 true),
    (0b111111_01001_00000_10100_0010001000_0, .fnabs 9 0 20 false),
    (0b111111_10100_00000_01101_0100001000_1, .fabs 20 0 13 true),
    (0b111111_01101_00000_00000_1001000111_0, .mffs 13 0 0 false)] = true := by decide

/-- Encodings of the rows of 45_*.md (30_encoding.md R97 to R101). -/
theorem test_decode_float_arithmetic_c : decodesAll [
    (0b111111_0_10110001_0_00011_1011000111_0, .mtfsf 0 177 0 3 false)] = true := by decide

/-- Encodings of the rows of 46_*.md (30_encoding.md R97 to R101). -/
theorem test_decode_float_load_store_a : decodesAll [
    (0b011111_10001_11110_01001_1000010111_0, .lfsx 17 30 9 0),
    (0b011111_10100_01101_00011_1000110111_0, .lfsux 20 13 3 0),
    (0b011111_11110_01001_10100_1001010111_0, .lfdx 30 9 20 0),
    (0b011111_01001_10100_01101_1001110111_0, .lfdux 9 20 13 0),
    (0b011111_10001_11110_01001_1010010111_0, .stfsx 17 30 9 0),
    (0b011111_11110_01001_10100_1010110111_0, .stfsux 30 9 20 0),
    (0b011111_10100_01101_00011_1011010111_0, .stfdx 20 13 3 0),
    (0b011111_01101_00011_10001_1011110111_0, .stfdux 13 3 17 0),
    (0b011111_11110_01001_10100_1111010111_0, .stfiwx 30 9 20 0),
    (0b110000_11110_01001_1000101001010001, .lfs 30 9 35409),
    (0b110001_01001_10100_1000101001010001, .lfsu 9 20 35409),
    (0b110010_10100_01101_1000101001010001, .lfd 20 13 35409),
    (0b110011_01101_00011_1000101001010001, .lfdu 13 3 35409),
    (0b110100_00011_10001_1000101001010001, .stfs 3 17 35409),
    (0b110101_10001_11110_1000101001010001, .stfsu 17 30 35409),
    (0b110110_11110_01001_1000101001010001, .stfd 30 9 35409)] = true := by decide

/-- Encodings of the rows of 46_*.md (30_encoding.md R97 to R101). -/
theorem test_decode_float_load_store_b : decodesAll [
    (0b110111_01001_10100_1000101001010001, .stfdu 9 20 35409)] = true := by decide

/-- Encodings of the rows of 47_*.md (30_encoding.md R97 to R101). -/
theorem test_decode_branch : decodesAll [
    (0b010000_01001_10100_10101001010011_0_1, .bc 9 20 10835 false true),
    (0b010010_100010100101110000110001_0_1, .b 9067569 false true),
    (0b010011_101_00_011_00_00000_0000000000_0, .mcrf 5 0 3 0 0 0),
    (0b010011_10001_11110_00000_0000010000_0, .bclr 17 30 0 false),
    (0b010011_11110_01001_10100_0000100001_0, .crnor 30 9 20 0),
    (0b010011_10100_01101_00011_0010000001_0, .crandc 20 13 3 0),
    (0b010011_00011_10001_11110_0011000001_0, .crxor 3 17 30 0),
    (0b010011_10001_11110_01001_0011100001_0, .crnand 17 30 9 0),
    (0b010011_11110_01001_10100_0100000001_0, .crand 30 9 20 0),
    (0b010011_01001_10100_01101_0100100001_0, .creqv 9 20 13 0),
    (0b010011_10100_01101_00011_0110100001_0, .crorc 20 13 3 0),
    (0b010011_01101_00011_10001_0111000001_0, .cror 13 3 17 0),
    (0b010011_00011_10001_00000_1000010000_1, .bcctr 3 17 0 true),
    (0b011111_01001_00000_00000_0000010011_0, .mfcr 9 0 0 0),
    (0b011111_01101_0_10110001_0_0010010000_0, .mtcrf 13 0 177 0 0)] = true := by decide

/-- Encodings of the rows of 48_*.md (30_encoding.md R97 to R101). -/
theorem test_decode_system : decodesAll [
    (0b010001_00000000000000000000000000, .sc 0),
    (0b010011_00000_00000_00000_0000110010_0, .rfi 0 0 0 0),
    (0b010011_00000_00000_00000_0010010110_0, .isync 0 0 0 0),
    (0b011111_00000_01101_00011_0000110110_0, .dcbst 0 13 3 0),
    (0b011111_01001_00000_00000_0001010011_0, .mfmsr 9 0 0 0),
    (0b011111_00000_10100_01101_0001010110_0, .dcbf 0 20 13 0),
    (0b011111_00011_00000_00000_0010010010_0, .mtmsr 3 0 0 0),
    (0b011111_00000_00011_10001_0011110110_0, .dcbtst 0 3 17 0),
    (0b011111_00000_01001_10100_0100010110_0, .dcbt 0 9 20 0),
    (0b011111_00000_10001_11110_0111010110_0, .dcbi 0 17 30 0),
    (0b011111_00000_00000_00000_1001010110_0, .sync 0 0 0 0),
    (0b011111_00000_00000_00000_1101010110_0, .eieio 0 0 0 0),
    (0b011111_00000_10001_11110_1111010110_0, .icbi 0 17 30 0),
    (0b011111_00000_01001_10100_1111110110_0, .dcbz 0 9 20 0)] = true := by decide

/-- Encodings of the rows of 49_*.md (30_encoding.md R97 to R101). -/
theorem test_decode_unimplemented : decodesAll [
    (0b000011_00011_10001_1000101001010001, .twi 3 17 35409),
    (0b011111_01101_00011_10001_0000000100_0, .tw 13 3 17 0),
    (0b011111_10100_01101_00011_0000010100_0, .lwarx 20 13 3 0),
    (0b011111_10001_11110_01001_0010010110_0, .stwcxDot 17 30 9 0),
    (0b011111_00011_0_1011_00000_0011010010_0, .mtsr 3 0 11 0 0),
    (0b011111_01101_00000_00011_0011110010_0, .mtsrin 13 0 3 0),
    (0b011111_00000_00000_00011_0100110010_0, .tlbie 0 0 3 0),
    (0b011111_00000_00000_00000_1000110110_0, .tlbsync 0 0 0 0),
    (0b011111_01101_0_0110_00000_1001010011_0, .mfsr 13 0 6 0 0),
    (0b011111_10100_00000_01101_1010010011_0, .mfsrin 20 0 13 0)] = true := by decide

/-! ## One step on the spec's own vectors (95_test_vectors.md, 96_test_vectors_memory_fp.md), one for an instruction -/

theorem test_step_fixed_arithmetic_a : [
    ends 0x1C64FFFD [.gpr 4 0x00000007] 0 [.gpr 3 0xFFFFFFEB, .pc 0x00001004],
    ends 0x2064000A [.gpr 4 0x00000003] 0 [.gpr 3 0x00000007, .xer 0x20000000, .pc 0x00001004],
    ends 0x30640001 [.gpr 4 0x00000005, .xer 0x20000000] 0 [.gpr 3 0x00000006, .xer 0x00000000, .pc 0x00001004],
    ends 0x3464FFFF [.gpr 4 0x00000000, .xer 0x80000000] 0 [.gpr 3 0xFFFFFFFF, .cr 0x90000000, .pc 0x00001004],
    ends 0x38600005 [.gpr 0 0x00001234, .gpr 3 0xFFFFFFFF] 0 [.gpr 3 0x00000005, .pc 0x00001004],
    ends 0x3C601234 [] 0 [.gpr 3 0x12340000, .pc 0x00001004],
    ends 0x7C642810 [.gpr 4 0x00000003, .gpr 5 0x0000000A] 0 [.gpr 3 0x00000007, .xer 0x20000000, .pc 0x00001004],
    ends 0x7C642C14 [.gpr 3 0x55555555, .gpr 4 0xFFFFFFFF, .gpr 5 0x00000001] 0 [.gpr 3 0x00000000, .xer 0x20000000, .pc 0x00001004],
    ends 0x7C642817 [.gpr 4 0xFFFFFFFF, .gpr 5 0xFFFFFFFF] 0 [.gpr 3 0xFFFFFFFE, .cr 0x80000000, .pc 0x00001004],
    ends 0x7C642C50 [.gpr 4 0x00000001, .gpr 5 0x80000000] 0 [.gpr 3 0x7FFFFFFF, .xer 0xC0000000, .pc 0x00001004]].all id = true := by decide

theorem test_step_fixed_arithmetic_b : [
    ends 0x7C642897 [.gpr 4 0xFFFFFFFF, .gpr 5 0x00000002, .xer 0x80000000] 0 [.gpr 3 0xFFFFFFFF, .cr 0x90000000, .pc 0x00001004],
    ends 0x7C6404D0 [.gpr 4 0x80000000] 0 [.gpr 3 0x80000000, .xer 0xC0000000, .pc 0x00001004],
    ends 0x7C642910 [.gpr 4 0x00000000, .gpr 5 0x00000000] 0 [.gpr 3 0xFFFFFFFF, .pc 0x00001004],
    ends 0x7C642D14 [.gpr 4 0x7FFFFFFF, .gpr 5 0x00000000, .xer 0x20000000] 0 [.gpr 3 0x80000000, .xer 0xC0000000, .pc 0x00001004],
    ends 0x7C640190 [.gpr 4 0x00000001] 0 [.gpr 3 0xFFFFFFFE, .pc 0x00001004],
    ends 0x7C640594 [.gpr 4 0x7FFFFFFF, .xer 0x20000000] 0 [.gpr 3 0x80000000, .xer 0xC0000000, .pc 0x00001004],
    ends 0x7C6401D0 [.gpr 4 0x00000000, .xer 0x20000000] 0 [.gpr 3 0xFFFFFFFF, .pc 0x00001004],
    ends 0x7C6405D4 [.gpr 4 0x80000000] 0 [.gpr 3 0x7FFFFFFF, .xer 0xE0000000, .pc 0x00001004],
    ends 0x7C642DD6 [.gpr 4 0x12345678, .gpr 5 0x00000010] 0 [.gpr 3 0x23456780, .xer 0xC0000000, .pc 0x00001004],
    ends 0x7C642E15 [.gpr 4 0x7FFFFFFF, .gpr 5 0x00000001] 0 [.gpr 3 0x80000000, .cr 0x90000000, .xer 0xC0000000, .pc 0x00001004]].all id = true := by decide

theorem test_step_fixed_arithmetic_c : [
    ends 0x7C642F97 [.gpr 4 0x00000001, .gpr 5 0x00000000] 0 [.cr 0x30000000, .xer 0xC0000000, .pc 0x00001004],
    ends 0x7C642FD7 [.gpr 4 0x80000000, .gpr 5 0xFFFFFFFF, .gpr 3 0x00000055] 0 [.gpr 3 0x00000000, .cr 0x30000000, .xer 0xC0000000, .pc 0x00001004]].all id = true := by decide

theorem test_step_fixed_logical_a : [
    ends 0x2884FFFF [.gpr 4 0xFFFFFFFF] 0 [.cr 0x04000000, .pc 0x00001004],
    ends 0x2C04FFFF [.gpr 4 0x80000000, .xer 0x80000000] 0 [.cr 0x90000000, .pc 0x00001004],
    ends 0x5083801E [.gpr 3 0xAAAABBBB, .gpr 4 0x1234CDEF] 0 [.gpr 3 0xCDEFBBBB, .pc 0x00001004],
    ends 0x5483203F [.gpr 4 0x80000001] 0 [.gpr 3 0x00000018, .cr 0x40000000, .pc 0x00001004],
    ends 0x5C83283E [.gpr 4 0x80000001, .gpr 5 0x00000021] 0 [.gpr 3 0x00000003, .pc 0x00001004],
    ends 0x60831234 [.gpr 4 0xFFFF0000] 0 [.gpr 3 0xFFFF1234, .pc 0x00001004],
    ends 0x64831234 [.gpr 4 0x0000FFFF] 0 [.gpr 3 0x1234FFFF, .pc 0x00001004],
    ends 0x6883FFFF [.gpr 4 0x12345678] 0 [.gpr 3 0x1234A987, .pc 0x00001004],
    ends 0x6C83FFFF [.gpr 4 0x12345678] 0 [.gpr 3 0xEDCB5678, .pc 0x00001004],
    ends 0x7083FF00 [.gpr 4 0x12345678] 0 [.gpr 3 0x00005600, .cr 0x40000000, .pc 0x00001004]].all id = true := by decide

theorem test_step_fixed_logical_b : [
    ends 0x74838000 [.gpr 4 0xFFFFFFFF] 0 [.gpr 3 0x80000000, .cr 0x80000000, .pc 0x00001004],
    ends 0x7D042800 [.gpr 4 0xFFFFFFFF, .gpr 5 0x00000001] 0 [.cr 0x00800000, .pc 0x00001004],
    ends 0x7C832830 [.gpr 4 0x80000001, .gpr 5 0x00000001] 0 [.gpr 3 0x00000002, .pc 0x00001004],
    ends 0x7C830035 [.gpr 4 0x80000000, .gpr 3 0x00000005] 0 [.gpr 3 0x00000000, .cr 0x20000000, .pc 0x00001004],
    ends 0x7C832838 [.gpr 4 0xFF00FF00, .gpr 5 0x0FF00FF0] 0 [.gpr 3 0x0F000F00, .pc 0x00001004],
    ends 0x7D042840 [.gpr 4 0xFFFFFFFF, .gpr 5 0x00000001] 0 [.cr 0x00400000, .pc 0x00001004],
    ends 0x7C832878 [.gpr 4 0xFF00FF00, .gpr 5 0x0FF00FF0] 0 [.gpr 3 0xF000F000, .pc 0x00001004],
    ends 0x7C8328F8 [.gpr 4 0x0000FFFF, .gpr 5 0x00000000] 0 [.gpr 3 0xFFFF0000, .pc 0x00001004],
    ends 0x7C832A38 [.gpr 4 0xFF00FF00, .gpr 5 0x0FF00FF0] 0 [.gpr 3 0x0F0F0F0F, .pc 0x00001004],
    ends 0x7C832A79 [.gpr 4 0x0000ABCD, .gpr 5 0x0000ABCD, .gpr 3 0x00000001] 0 [.gpr 3 0x00000000, .cr 0x20000000, .pc 0x00001004]].all id = true := by decide

theorem test_step_fixed_logical_c : [
    ends 0x7C832B38 [.gpr 4 0xFF00FF00, .gpr 5 0x0FF00FF0] 0 [.gpr 3 0xFF0FFF0F, .pc 0x00001004],
    ends 0x7C832B78 [.gpr 4 0xFF00FF00, .gpr 5 0x0FF00FF0] 0 [.gpr 3 0xFFF0FFF0, .pc 0x00001004],
    ends 0x7C832BB8 [.gpr 4 0xFF00FF00, .gpr 5 0x0FF00FF0] 0 [.gpr 3 0xF0FFF0FF, .pc 0x00001004],
    ends 0x7C832C30 [.gpr 4 0x80000000, .gpr 5 0x00000020, .gpr 3 0x00000009] 0 [.gpr 3 0x00000000, .pc 0x00001004],
    ends 0x7C832E30 [.gpr 4 0xFFFFFFF8, .gpr 5 0x00000001, .xer 0x20000000] 0 [.gpr 3 0xFFFFFFFC, .xer 0x00000000, .pc 0x00001004],
    ends 0x7C830670 [.gpr 4 0x80000000, .xer 0x20000000] 0 [.gpr 3 0x80000000, .xer 0x00000000, .pc 0x00001004],
    ends 0x7C830734 [.gpr 4 0x12348000] 0 [.gpr 3 0xFFFF8000, .pc 0x00001004],
    ends 0x7C830775 [.gpr 4 0xFFFFFF7F] 0 [.gpr 3 0x0000007F, .cr 0x40000000, .pc 0x00001004]].all id = true := by decide

theorem test_step_load_store_a : [
    ends 0x7C64282E [.gpr 4 0x00002000, .gpr 5 0x00000008, .mem 4 0x00002008 0x01020304] 0 [.gpr 3 0x01020304, .pc 0x00001004],
    ends 0x7C64286E [.gpr 4 0x00002000, .gpr 5 0x00000008, .mem 4 0x00002008 0x01020304] 0 [.gpr 3 0x01020304, .gpr 4 0x00002008, .pc 0x00001004],
    ends 0x7C6428AE [.gpr 4 0x00002000, .gpr 5 0x00000009, .mem 2 0x2008 0x0102] 0 [.gpr 3 0x00000002, .pc 0x00001004],
    ends 0x7C6428EE [.gpr 4 0x00002000, .gpr 5 0xFFFFFFFF, .mem 1 0x1FFF 0xEE] 0 [.gpr 3 0x000000EE, .gpr 4 0x00001FFF, .pc 0x00001004],
    ends 0x7C64292E [.gpr 3 0xCAFEF00D, .gpr 4 0x00002000, .gpr 5 0x00000004] 0 [.mem 4 0x2004 0xCAFEF00D, .pc 0x00001004],
    ends 0x7C64296E [.gpr 3 0xCAFEF00D, .gpr 4 0x00002000, .gpr 5 0x00000004] 0 [.gpr 4 0x00002004, .mem 4 0x2004 0xCAFEF00D, .pc 0x00001004],
    ends 0x7C6429AE [.gpr 3 0x000000A5, .gpr 4 0x00002000, .gpr 5 0x00000003] 0 [.mem 1 0x2003 0xA5, .pc 0x00001004],
    ends 0x7C6429EE [.gpr 3 0x000000A5, .gpr 4 0x00002000, .gpr 5 0x00000003] 0 [.gpr 4 0x00002003, .mem 1 0x2003 0xA5, .pc 0x00001004],
    ends 0x7C642A2E [.gpr 4 0x00002000, .gpr 5 0x00000008, .mem 2 0x2008 0x1234] 0 [.gpr 3 0x00001234, .pc 0x00001004],
    ends 0x7C642A6E [.gpr 4 0x00002000, .gpr 5 0x00000008, .mem 2 0x2008 0xFFFE] 0 [.gpr 3 0x0000FFFE, .gpr 4 0x00002008, .pc 0x00001004]].all id = true := by decide

theorem test_step_load_store_b : [
    ends 0x7C642AAE [.gpr 4 0x00002000, .gpr 5 0x00000008, .mem 2 0x2008 0x8000] 0 [.gpr 3 0xFFFF8000, .pc 0x00001004],
    ends 0x7C642AEE [.gpr 4 0x00002000, .gpr 5 0x00000008, .mem 2 0x2008 0x0080] 0 [.gpr 3 0x00000080, .gpr 4 0x00002008, .pc 0x00001004],
    ends 0x7C642B2E [.gpr 3 0x0000BEEF, .gpr 4 0x00002000, .gpr 5 0x00000002] 0 [.mem 2 0x2002 0xBEEF, .pc 0x00001004],
    ends 0x7C642B6E [.gpr 3 0x0000BEEF, .gpr 4 0x00002000, .gpr 5 0x00000002] 0 [.gpr 4 0x00002002, .mem 2 0x2002 0xBEEF, .pc 0x00001004],
    ends 0x7C642C2A [.xer 0x00000005, .gpr 4 0x00002000, .gpr 5 0x00000000, .mem 4 0x2000 0xA1A2A3A4, .mem 1 0x2004 0xA5] 0 [.gpr 3 0xA1A2A3A4, .gpr 4 0xA5000000, .pc 0x00001004],
    ends 0x7C642C2C [.gpr 4 0x00002000, .gpr 5 0x00000000, .mem 4 0x2000 0x12345678] 0 [.gpr 3 0x78563412, .pc 0x00001004],
    ends 0x7CA43CAA [.gpr 4 0x00002000, .gpr 6 0xFFFFFFFF, .gpr 7 0x00000099, .mem 8 0x2000 0x1122334455667788] 0 [.gpr 5 0x11223344, .gpr 6 0x55667700, .pc 0x00001004],
    ends 0x7C642D2A [.xer 0x00000002, .gpr 3 0xCAFEF00D, .gpr 4 0x00002000, .gpr 5 0x00000001] 0 [.mem 2 0x2001 0xCAFE, .pc 0x00001004],
    ends 0x7C642D2C [.gpr 3 0x12345678, .gpr 4 0x00002000, .gpr 5 0x00000000] 0 [.mem 4 0x2000 0x78563412, .pc 0x00001004],
    ends 0x7CA43DAA [.gpr 4 0x00002000, .gpr 5 0x11223344, .gpr 6 0x55667788] 0 [.mem 4 0x2000 0x11223344, .mem 2 0x2004 0x5566, .mem 1 0x2006 0x77, .pc 0x00001004]].all id = true := by decide

theorem test_step_load_store_c : [
    ends 0x7C642E2C [.gpr 4 0x00002000, .gpr 5 0x00000000, .mem 2 0x2000 0x1234] 0 [.gpr 3 0x00003412, .pc 0x00001004],
    ends 0x7C642F2C [.gpr 3 0x12345678, .gpr 4 0x00002000, .gpr 5 0x00000000] 0 [.mem 2 0x2000 0x7856, .pc 0x00001004],
    ends 0x80640008 [.gpr 4 0x00002000, .mem 4 0x2008 0x12345678] 0 [.gpr 3 0x12345678, .pc 0x00001004],
    ends 0x84640008 [.gpr 4 0x00002000, .mem 4 0x00002008 0xDEADBEEF] 0 [.gpr 3 0xDEADBEEF, .gpr 4 0x00002008, .pc 0x00001004],
    ends 0x88640008 [.gpr 4 0x00002000, .gpr 3 0xFFFFFFFF, .mem 1 0x2008 0x80] 0 [.gpr 3 0x00000080, .pc 0x00001004],
    ends 0x8C640008 [.gpr 4 0x00002000, .mem 1 0x2008 0xAB] 0 [.gpr 3 0x000000AB, .gpr 4 0x00002008, .pc 0x00001004],
    ends 0x90640008 [.gpr 3 0x12345678, .gpr 4 0x00002000] 0 [.mem 4 0x2008 0x12345678, .pc 0x00001004],
    ends 0x9421FFF0 [.gpr 1 0x00008000] 0 [.gpr 1 0x00007FF0, .mem 4 0x7FF0 0x00008000, .pc 0x00001004],
    ends 0x98640008 [.gpr 3 0x12345678, .gpr 4 0x00002000] 0 [.mem 1 0x2008 0x78, .pc 0x00001004],
    ends 0x9C640008 [.gpr 3 0x000000FF, .gpr 4 0x00002000] 0 [.gpr 4 0x00002008, .mem 1 0x2008 0xFF, .pc 0x00001004]].all id = true := by decide

theorem test_step_load_store_d : [
    ends 0xA0640008 [.gpr 4 0x00002000, .mem 2 0x2008 0x8001] 0 [.gpr 3 0x00008001, .pc 0x00001004],
    ends 0xA4640008 [.gpr 4 0x00002000, .mem 2 0x2008 0x1234] 0 [.gpr 3 0x00001234, .gpr 4 0x00002008, .pc 0x00001004],
    ends 0xA8640008 [.gpr 4 0x00002000, .mem 2 0x2008 0x8001] 0 [.gpr 3 0xFFFF8001, .pc 0x00001004],
    ends 0xAC640008 [.gpr 4 0x00002000, .mem 2 0x2008 0xFFFF] 0 [.gpr 3 0xFFFFFFFF, .gpr 4 0x00002008, .pc 0x00001004],
    ends 0xB0640008 [.gpr 3 0x12345678, .gpr 4 0x00002000] 0 [.mem 2 0x2008 0x5678, .pc 0x00001004],
    ends 0xB4640008 [.gpr 3 0x0000BEEF, .gpr 4 0x00002000] 0 [.gpr 4 0x00002008, .mem 2 0x2008 0xBEEF, .pc 0x00001004],
    ends 0xBBA10000 [.gpr 1 0x00002000, .mem 4 0x00002000 0x0000000A, .mem 4 0x00002004 0x0000000B, .mem 4 0x00002008 0x0000000C] 0 [.gpr 29 0x0000000A, .gpr 30 0x0000000B, .gpr 31 0x0000000C, .pc 0x00001004],
    ends 0xBFA10000 [.gpr 1 0x00002000, .gpr 29 0x0000000A, .gpr 30 0x0000000B, .gpr 31 0x0000000C] 0 [.mem 8 0x2000 0x0000000A0000000B, .mem 4 0x2008 0x0000000C, .pc 0x00001004]].all id = true := by decide

theorem test_step_moves : [
    ends 0x7C6802A6 [.lr 0x80003100] 0 [.gpr 3 0x80003100, .pc 0x00001004],
    ends 0x7C6C42E6 [.tb 0x0000000100000002] 0 [.gpr 3 0x00000002, .pc 0x00001004],
    ends 0x7C6803A6 [.gpr 3 0x00002003] 0 [.lr 0x00002003, .pc 0x00001004],
    ends 0x7C000400 [.xer 0xF000007F, .cr 0x0FFFFFFF] 0 [.cr 0xFFFFFFFF, .xer 0x0000007F, .pc 0x00001004]].all id = true := by decide

theorem test_step_float_arithmetic_a : [
    ends 0xEC221824 [.fpr 2 0x3FF0000000000000, .fpr 3 0x4008000000000000] 0 [.fpr 1 0x3FD5555560000000, .fpscr 0x82064000, .pc 0x00001004],
    ends 0xEC221828 [.fpr 2 0x3FF0000000000000, .fpr 3 0x3E60000000000000] 0 [.fpr 1 0x3FF0000000000000, .fpscr 0x82064000, .pc 0x00001004],
    ends 0xEC22182A [.fpr 2 0x3FF0000000000000, .fpr 3 0x3E70000000000000, .fpscr 0x00000002] 0 [.fpr 1 0x3FF0000020000000, .fpscr 0x82064002, .pc 0x00001004],
    ends 0xEC201830 [.fpr 3 0x4000000000000000] 0 [.fpr 1 0x3FE0000000000000, .fpscr 0x00004000, .pc 0x00001004],
    ends 0xEC220132 [.fpr 2 0x4630000000000000, .fpr 4 0x4630000000000000] 0 [.fpr 1 0x7FF0000000000000, .fpscr 0x92065000, .pc 0x00001004],
    ends 0xEC221938 [.fpr 2 0x3FF0000020000000, .fpr 4 0x3FF0000020000000, .fpr 3 0x3FF0000000000000] 0 [.fpr 1 0x3E90000000000000, .fpscr 0x82024000, .pc 0x00001004],
    ends 0xEC22193A [.fpr 2 0x3FF0000000000000, .fpr 4 0x3E70000000000000, .fpr 3 0x3FF0000000000000] 0 [.fpr 1 0x3FF0000000000000, .fpscr 0x82024000, .pc 0x00001004],
    ends 0xEC22193C [.fpr 2 0x4000000000000000, .fpr 4 0x4008000000000000, .fpr 3 0x3FF0000000000000] 0 [.fpr 1 0xC014000000000000, .fpscr 0x00008000, .pc 0x00001004],
    ends 0xEC22193E [.fpr 2 0x4000000000000000, .fpr 4 0x4008000000000000, .fpr 3 0x3FF0000000000000] 0 [.fpr 1 0xC01C000000000000, .fpscr 0x00008000, .pc 0x00001004],
    ends 0xFC221824 [.fpr 2 0x3FF0000000000000, .fpr 3 0x0000000000000000, .fpscr 0x00000010] 0 [.fpr 1 0x7FF0000000000000, .fpscr 0xC4005010, .pc 0x00001004]].all id = true := by decide +kernel

theorem test_step_float_arithmetic_b : [
    ends 0xFC221828 [.fpr 2 0x7FF0000000000000, .fpr 3 0x7FF0000000000000] 0 [.fpr 1 0x7FF8000000000000, .fpscr 0xA0811000, .pc 0x00001004],
    ends 0xFC22182B [.fpr 2 0x7FF0000000000000, .fpr 3 0xFFF0000000000000, .cr 0xFFFFFFFF] 0 [.fpr 1 0x7FF8000000000000, .cr 0xFAFFFFFF, .fpscr 0xA0811000, .pc 0x00001004],
    ends 0xFC220132 [.fpr 2 0x4008000000000000, .fpr 4 0x3FE0000000000000, .fpr 3 0x7FF8000000000000] 0 [.fpr 1 0x3FF8000000000000, .fpscr 0x00004000, .pc 0x00001004],
    ends 0xFC201834 [.fpr 3 0x4010000000000000] 0 [.fpr 1 0x3FE0000000000000, .fpscr 0x00004000, .pc 0x00001004],
    ends 0xFC221938 [.fpr 2 0x4000000000000000, .fpr 4 0x4008000000000000, .fpr 3 0x3FF0000000000000] 0 [.fpr 1 0x4014000000000000, .fpscr 0x00004000, .pc 0x00001004],
    ends 0xFC22193A [.fpr 2 0x4000000000000000, .fpr 4 0x4008000000000000, .fpr 3 0xC018000000000000, .fpscr 0x00000003] 0 [.fpr 1 0x8000000000000000, .fpscr 0x00012003, .pc 0x00001004],
    ends 0xFC22193C [.fpr 2 0x4000000000000000, .fpr 4 0x4008000000000000, .fpr 3 0x4018000000000000] 0 [.fpr 1 0x8000000000000000, .fpscr 0x00012000, .pc 0x00001004],
    ends 0xFC22193E [.fpr 2 0x3FF0000000000000, .fpr 4 0x3FF0000000000000, .fpr 3 0x3CA0000000000000, .fpscr 0x00000002] 0 [.fpr 1 0xBFF0000000000001, .fpscr 0x82068002, .pc 0x00001004],
    ends 0xFC821800 [.fpr 2 0x7FF0000000000000, .fpr 3 0x7FEFFFFFFFFFFFFF, .fpscr 0x00010000] 0 [.cr 0x04000000, .fpscr 0x00014000, .pc 0x00001004],
    ends 0xFC201818 [.fpr 3 0x3690000000000000, .fpscr 0x00000002] 0 [.fpr 1 0x36A0000000000000, .fpscr 0x8A074002, .pc 0x00001004]].all id = true := by decide +kernel

theorem test_step_float_arithmetic_c : [
    ends 0xFC20181C [.fpr 3 0x7FF8000000000000, .fpscr 0x00004000] 0 [.fpr 1 0xFFF8000080000000, .fpscr 0xA0004100, .pc 0x00001004],
    ends 0xFC20181E [.fpr 3 0x3FEFF7CED916872B, .fpscr 0x00000002] 0 [.fpr 1 0xFFF8000000000000, .fpscr 0x82020002, .pc 0x00001004],
    ends 0xFC821840 [.fpr 2 0x3FF0000000000000, .fpr 3 0x7FF0000000000001, .fpscr 0x00000080] 0 [.cr 0x01000000, .fpscr 0xE1001080, .pc 0x00001004],
    ends 0xFF00004C [.fpscr 0x20800000] 0 [.fpscr 0x60800080, .pc 0x00001004],
    ends 0xFC201850 [.fpr 3 0x7FF0000000000001] 0 [.fpr 1 0xFFF0000000000001, .pc 0x00001004],
    ends 0xFD040080 [.fpscr 0x82000000] 0 [.cr 0x00200000, .fpscr 0x80000000, .pc 0x00001004],
    ends 0xFFC0008C [.fpscr 0x00000003] 0 [.fpscr 0x00000001, .pc 0x00001004],
    ends 0xFC201891 [.fpr 3 0x7FF0000000000001, .fpscr 0x90000000] 0 [.fpr 1 0x7FF0000000000001, .cr 0x09000000, .pc 0x00001004],
    ends 0xFF80110C [.fpscr 0x0000000E] 0 [.fpscr 0x00000001, .pc 0x00001004],
    ends 0xFC201910 [.fpr 3 0x4000000000000000] 0 [.fpr 1 0xC000000000000000, .pc 0x00001004]].all id = true := by decide +kernel

theorem test_step_float_arithmetic_d : [
    ends 0xFC201A10 [.fpr 3 0xC000000000000000] 0 [.fpr 1 0x4000000000000000, .pc 0x00001004],
    ends 0xFC20048E [.fpscr 0x00000003] 0 [.fpr 1 0xFFF8000000000003, .pc 0x00001004],
    ends 0xFDFE1D8F [.fpr 3 0x0000000090000000] 0 [.cr 0x09000000, .fpscr 0x90000000, .pc 0x00001004]].all id = true := by decide +kernel

theorem test_step_float_load_store_a : [
    ends 0x7C242C2E [.gpr 4 0x00002000, .gpr 5 0x00000008, .mem 4 0x00002008 0x40400000] 0 [.fpr 1 0x4008000000000000, .pc 0x00001004],
    ends 0x7C242C6E [.gpr 4 0x00002000, .gpr 5 0x00000008, .mem 4 0x00002008 0x80000000] 0 [.gpr 4 0x00002008, .fpr 1 0x8000000000000000, .pc 0x00001004],
    ends 0x7C242CAE [.gpr 4 0x00002000, .gpr 5 0x00000008, .mem 8 0x00002008 0x0123456789ABCDEF] 0 [.fpr 1 0x0123456789ABCDEF, .pc 0x00001004],
    ends 0x7C242CEE [.gpr 4 0x00002000, .gpr 5 0x00000008, .mem 8 0x00002008 0x0123456789ABCDEF] 0 [.gpr 4 0x00002008, .fpr 1 0x0123456789ABCDEF, .pc 0x00001004],
    ends 0x7C242D2E [.gpr 4 0x00002000, .gpr 5 0x00000004, .fpr 1 0x4000000000000000] 0 [.mem 4 0x2004 0x40000000, .pc 0x00001004],
    ends 0x7C242D6E [.gpr 4 0x00002000, .gpr 5 0x00000004, .fpr 1 0x4000000000000000] 0 [.gpr 4 0x00002004, .mem 4 0x2004 0x40000000, .pc 0x00001004],
    ends 0x7C242DAE [.gpr 4 0x00002000, .gpr 5 0x00000008, .fpr 1 0x3FF0000000000000] 0 [.mem 8 0x2008 0x3FF0000000000000, .pc 0x00001004],
    ends 0x7C242DEE [.gpr 4 0x00002000, .gpr 5 0x00000008, .fpr 1 0x3FF0000000000000] 0 [.gpr 4 0x00002008, .mem 8 0x2008 0x3FF0000000000000, .pc 0x00001004],
    ends 0x7C242FAE [.gpr 4 0x00002000, .gpr 5 0x00000004, .fpr 1 0xFFF80000FFFFFFFE] 0 [.mem 4 0x2004 0xFFFFFFFE, .pc 0x00001004],
    ends 0xC0240008 [.gpr 4 0x00002000, .mem 4 0x00002008 0x3F800000] 0 [.fpr 1 0x3FF0000000000000, .pc 0x00001004]].all id = true := by decide

theorem test_step_float_load_store_b : [
    ends 0xC4240008 [.gpr 4 0x00002000, .mem 4 0x00002008 0x40000000] 0 [.gpr 4 0x00002008, .fpr 1 0x4000000000000000, .pc 0x00001004],
    ends 0xC8240008 [.gpr 4 0x00002000, .mem 8 0x2008 0x400921FB54442D18] 0 [.fpr 1 0x400921FB54442D18, .pc 0x00001004],
    ends 0xCC240008 [.gpr 4 0x00002000, .mem 8 0x00002008 0x7FF0000000000001] 0 [.gpr 4 0x00002008, .fpr 1 0x7FF0000000000001, .pc 0x00001004],
    ends 0xD0240008 [.gpr 4 0x00002000, .fpr 1 0xB690000000000000, .mem 4 0x00002008 0x55555555] 0 [.mem 4 0x2008 0x80000000, .pc 0x00001004],
    ends 0xD4240008 [.gpr 4 0x00002000, .fpr 1 0x3FF0000000000000] 0 [.gpr 4 0x00002008, .mem 4 0x2008 0x3F800000, .pc 0x00001004],
    ends 0xD8240008 [.gpr 4 0x00002000, .fpr 1 0x400921FB54442D18] 0 [.mem 8 0x2008 0x400921FB54442D18, .pc 0x00001004],
    ends 0xDC240008 [.gpr 4 0x00002000, .fpr 1 0x7FF0000000000001] 0 [.gpr 4 0x00002008, .mem 8 0x2008 0x7FF0000000000001, .pc 0x00001004]].all id = true := by decide

theorem test_step_branch_a : [
    ends 0x42000021 [.ctr 0x00000001] 0 [.lr 0x00001004, .ctr 0x00000000, .pc 0x00001004],
    ends 0x48000021 [.pc 0x00001000] 0 [.lr 0x00001004, .pc 0x00001020],
    ends 0x4C9C0000 [.cr 0x0000000A] 0 [.cr 0x0A00000A, .pc 0x00001004],
    ends 0x4E000020 [.ctr 0x00000002, .lr 0x00002000] 0 [.ctr 0x00000001, .pc 0x00002000],
    ends 0x4C011042 [.cr 0x00000000] 0 [.cr 0x80000000, .pc 0x00001004],
    ends 0x4C011102 [.cr 0x40000000] 0 [.cr 0xC0000000, .pc 0x00001004],
    ends 0x4CC63182 [.cr 0xFFFFFFFF] 0 [.cr 0xFDFFFFFF, .pc 0x00001004],
    ends 0x4C0111C2 [.cr 0x60000000] 0 [.pc 0x00001004],
    ends 0x4C011202 [.cr 0x60000000] 0 [.cr 0xE0000000, .pc 0x00001004],
    ends 0x4CC63242 [.cr 0x00000000] 0 [.cr 0x02000000, .pc 0x00001004]].all id = true := by decide

theorem test_step_branch_b : [
    ends 0x4C011342 [.cr 0x00000000] 0 [.cr 0x80000000, .pc 0x00001004],
    ends 0x4FE00B82 [.cr 0x40000000] 0 [.cr 0x40000001, .pc 0x00001004],
    ends 0x4E800421 [.ctr 0x00002000] 0 [.lr 0x00001004, .pc 0x00002000],
    ends 0x7C600026 [.cr 0x12345678] 0 [.gpr 3 0x12345678, .pc 0x00001004],
    ends 0x7C6FF120 [.gpr 3 0x12345678, .cr 0xFFFFFFFF] 0 [.cr 0x12345678, .pc 0x00001004]].all id = true := by decide

theorem test_step_system_a : [
    ends 0x44000002 [.msr 0x0000B032] 0 [.msr 0x00001000, .srr0 0x00001004, .srr1 0x0000B032, .pc 0x00000C00],
    ends 0x4C000064 [.srr0 0x00001007, .srr1 0xFFFFFFFF, .msr 0x00001000] 0 [.msr 0x0000FF73, .pc 0x00001004],
    ends 0x4C00012C [] 0 [.pc 0x00001004],
    ends 0x7C04286C [.gpr 4 0x00020000] 0 [.pc 0x00001004],
    ends 0x7C6000A6 [.msr 0x00009032] 0 [.gpr 3 0x00009032, .pc 0x00001004],
    ends 0x7C0428AC [.gpr 4 0x00020000] 0 [.pc 0x00001004],
    ends 0x7C600124 [.gpr 3 0xFFFFFFFF, .msr 0x00004000] 0 [.msr 0xFFFFFFFF, .pc 0x00001004],
    ends 0x7C0429EC [.gpr 4 0x00020000] 0 [.pc 0x00001004],
    ends 0x7C042A2C [.gpr 4 0x00020000] 0 [.pc 0x00001004],
    ends 0x7C042BAC [.gpr 4 0x00020000, .msr 0x00004000] 0 [.pc 0x00001004]].all id = true := by decide

theorem test_step_system_b : [
    ends 0x7C0004AC [.gpr 3 0x00000001, .cr 0x12345678] 0 [.pc 0x00001004],
    ends 0x7C0006AC [] 0 [.pc 0x00001004],
    ends 0x7C042FAC [.gpr 4 0x00020000] 0 [.pc 0x00001004],
    ends 0x7C042FEC [.gpr 4 0x00002000, .gpr 5 0x00000013, .mem 8 0x1FFC 0xFFFFFFFFFFFFFFFF, .mem 8 0x2004 0xFFFFFFFFFFFFFFFF, .mem 8 0x200C 0xFFFFFFFFFFFFFFFF, .mem 8 0x2014 0xFFFFFFFFFFFFFFFF, .mem 8 0x201C 0xFFFFFFFFFFFFFFFF] 0 [.mem 8 0x2000 0x0000000000000000, .mem 8 0x2008 0x0000000000000000, .mem 8 0x2010 0x0000000000000000, .mem 8 0x2018 0x0000000000000000, .pc 0x00001004]].all id = true := by decide

theorem test_step_unimplemented : [
    ends 0x0C840000 [] 2 [.invalid .twi 0x00001000 0x0C840000, .pc 0x00001004],
    ends 0x7C842808 [] 2 [.invalid .tw 0x00001000 0x7C842808, .pc 0x00001004],
    ends 0x7C642828 [.gpr 4 0x00002000] 2 [.invalid .lwarx 0x00001000 0x7C642828, .pc 0x00001004],
    ends 0x7C64292D [.gpr 3 0x00000009, .gpr 4 0x00002000] 2 [.invalid .stwcxDot 0x00001000 0x7C64292D, .pc 0x00001004],
    ends 0x7C6101A4 [] 2 [.invalid .mtsr 0x00001000 0x7C6101A4, .pc 0x00001004],
    ends 0x7C6021E4 [] 2 [.invalid .mtsrin 0x00001000 0x7C6021E4, .pc 0x00001004],
    ends 0x7C002264 [] 2 [.invalid .tlbie 0x00001000 0x7C002264, .pc 0x00001004],
    ends 0x7C00046C [] 2 [.invalid .tlbsync 0x00001000 0x7C00046C, .pc 0x00001004],
    ends 0x7C6104A6 [] 2 [.invalid .mfsr 0x00001000 0x7C6104A6, .pc 0x00001004],
    ends 0x7C602526 [] 2 [.invalid .mfsrin 0x00001000 0x7C602526, .pc 0x00001004]].all id = true := by decide

/-! ## The turn of the loop -/

/-- At construction the loop is not running, so the first turn stops (40_dispatcher.md R138; log 2). -/
theorem test_stopped : step State.reset = .fault .loopStopped := rfl

/-- `addi r3,0,5` placed where the next turn fetches runs there. -/
theorem test_placed_word : ∃ t, step (State.reset.withFetchWord 32 0x38600005) = .next t ∧ t.gpr 3 = 5 ∧ t.pc = 4 :=
  ⟨_, rfl, rfl, rfl⟩

/-- The table's words reach the decoder as numbers. -/
theorem test_table_word : decodeTableWord 32 0x38600005 = some (.addi 3 0 5) ∧ decodeTableWord 32 0 = none := ⟨rfl, rfl⟩

/-! ## Clearing FX (45_floating_point_arithmetic.md R381, R384; log 26) -/

/-- `mcrfs cr0,0` clears FX and OX: the vector of 96_test_vectors_memory_fp.md line 204. -/
theorem test_mcrfs_clears_fx : ends 0xFC000080 [.fpscr 0xFFFFFFFF] 0 [.cr 0xF0000000, .fpscr 0x6FFFFFFF, .pc 0x00001004] = true := by
  decide

/-- `mtfsb0 0` clears FX and nothing else, worked out from R384. -/
theorem test_mtfsb0_clears_fx : ends 0xFC00008C [.fpscr 0x92000000] 0 [.fpscr 0x12000000, .pc 0x00001004] = true := by decide

/-! ## Others at the port (20_memory.md R74; 70_reset_and_hazards.md R592 (c)) -/

/-- One step of the Dispatcher on a word at PC, r4 holding 0x2000, while others do what the list says before its calls. -/
def among (traffic : List Interference) (w : Word) : Result :=
  let s := vectorStart.setGpr 4 0x2000
  dispatchStep { s with mem := writeBytes s.mem 0x1000 4 (asPort w), traffic := traffic }

/-- `lbz r3,0(r4)`: another process writes the byte between the fetch and the load, which reads it. -/
theorem test_write_before_load :
    ∃ t, among [{}, { writes := [(0x2000, 0xAB)] }] 0x88640000 = .next t ∧ t.gpr 3 = 0xAB ∧ t.traffic = [] :=
  ⟨_, rfl, rfl, rfl⟩

/-- `lswi r5,r4,2`: the byte of the second read changes after the first, and only the second sees it. -/
theorem test_write_between_reads :
    ∃ t, among [{}, {}, { writes := [(0x2000, 0x11), (0x2001, 0x22)] }] 0x7CA414AA = .next t ∧ t.gpr 5 = 0x00220000 :=
  ⟨_, rfl, rfl⟩

/-- `stswi r4,r4,2`: the byte the first write stored is overwritten before the second. -/
theorem test_write_between_writes :
    ∃ t, among [{}, {}, { writes := [(0x2000, 0x77)] }] 0x7C8415AA = .next t ∧ readByte t.mem 0x2000 = 0x77 ∧
      readByte t.mem 0x2001 = 0 ∧ t.outcome = some .ok :=
  ⟨_, rfl, rfl, rfl, rfl⟩

/-- `lswi r5,r4,2`: the target disconnects between the two reads; no register changes (R68, R69 (a); log 9). -/
theorem test_disconnect_between_reads :
    ∃ t, among [{}, { writes := [(0x2000, 0x11)] }, { port := some { hooked := false, ranges := [PortRange.whole] } }] 0x7CA414AA =
        .next t ∧ t.outcome = some (.memoryFailure .read 0x2001 .byte) ∧ t.gpr 5 = 0 ∧ t.pc = 0x1000 :=
  ⟨_, rfl, rfl, rfl, rfl⟩

/-! ## Witnesses: a state and operands that meet the hypotheses of each statement that has some, at boundaries of their ranges -/

/-- A state whose next turn of the loop runs a word. -/
def about (w : Nat) : State := State.reset.withFetchWord 32 w

/-- The machine at construction with one register set. -/
def withGpr (r : GprNum) (v : Word) : State := vectorStart.setGpr r v

theorem witness_DecodeEncode : decode 0x7C642E15 = .ok (.add 3 4 5 true true) := rfl

theorem witness_OpcodeTable :
    decode 0x7C642E15 = .ok (.add 3 4 5 true true) ∧
      (∃ r q, r ∈ opcodeRows ∧ q ∈ opcodeRows ∧ r.selects 0x7C642E15 = true ∧ q.selects 0x7C642E15 = true) :=
  ⟨rfl, (Instr.add 3 4 5 true true).row, (Instr.add 3 4 5 true true).row, by decide, by decide, by decide, by decide⟩

/-- A PC at the last word of the address space, and at 0; and a word that another process writes just before the fetch. -/
theorem witness_StepRunsDecoded :
    (let s := { State.reset with pc := 0xFFFFFFFC }.withFetchWord 32 0x38600005
     let u := s.atCall.atCall
     s.running = true ∧ s.atCall.port.hooked = true ∧ s.pc.toNat % 4 = 0 ∧ u.port.answers .read s.pc.toNat 4 = true ∧
       decode (readByte u.mem s.pc.toNat ++ readByte u.mem (s.pc.toNat + 1) ++ readByte u.mem (s.pc.toNat + 2) ++
         readByte u.mem (s.pc.toNat + 3)) = .ok (.addi 3 0 5)) ∧
    (let s := about 0x44000002
     let u := s.atCall.atCall
     s.running = true ∧ s.atCall.port.hooked = true ∧ s.pc.toNat % 4 = 0 ∧ u.port.answers .read s.pc.toNat 4 = true ∧
       decode (readByte u.mem s.pc.toNat ++ readByte u.mem (s.pc.toNat + 1) ++ readByte u.mem (s.pc.toNat + 2) ++
         readByte u.mem (s.pc.toNat + 3)) = .ok (.sc 2)) ∧
    (let s := { about 0 with traffic := [{ port := some { hooked := true, ranges := [⟨0, 4, true, false⟩] } }, { writes := [(3, 2), (0, 0x44)] }] }
     let u := s.atCall.atCall
     s.running = true ∧ s.atCall.port.hooked = true ∧ s.pc.toNat % 4 = 0 ∧ u.port.answers .read s.pc.toNat 4 = true ∧
       decode (readByte u.mem s.pc.toNat ++ readByte u.mem (s.pc.toNat + 1) ++ readByte u.mem (s.pc.toNat + 2) ++
         readByte u.mem (s.pc.toNat + 3)) = .ok (.sc 2)) :=
  ⟨⟨by decide, by decide, by decide, by decide, rfl⟩, ⟨by decide, by decide, by decide, by decide, rfl⟩,
    ⟨by decide, by decide, by decide, by decide, rfl⟩⟩

/-- Whether the decoder refuses a word by that name. -/
def refusesAs (w : Word) (e : DecodeError) : Bool :=
  match decode w with
  | .error x => x == e
  | .ok _ => false

/-- A word for each of the five tables to fall out of. -/
theorem witness_UndecodableWord : ∀ c ∈ [(0x00000000, DecodeError.unknown), (0x4C000002, .unknown19), (0x7C000002, .unknown31),
      (0xEC000002, .unknown59), (0xFC000002, .unknown63)],
    let s := about c.1
    let u := s.atCall
    s.pc.toNat % 4 = 0 ∧ u.port.answers .read s.pc.toNat 4 = true ∧
      readByte u.mem s.pc.toNat ++ readByte u.mem (s.pc.toNat + 1) ++ readByte u.mem (s.pc.toNat + 2) ++
        readByte u.mem (s.pc.toNat + 3) = BitVec.ofNat 32 c.1 ∧
      refusesAs (BitVec.ofNat 32 c.1) c.2 = true := by decide

theorem witness_OrderOfChecks :
    State.reset.running = false ∧
    (let s := { about 0 with port := { hooked := false, ranges := [] } }
     s.running = true ∧ s.atCall.port.hooked = false) ∧
    ({ State.reset with pc := 1 }.pc.toNat % 4 ≠ 0 ∧ { State.reset with pc := 0xFFFFFFFF }.pc.toNat % 4 ≠ 0) ∧
    (let s := { vectorStart with pc := 0x10000 }
     s.pc.toNat % 4 = 0 ∧ s.atCall.port.answers .read s.pc.toNat 4 = false) ∧
    (let s := { vectorStart with pc := 0xFFFFFEFC }
     s.pc.toNat % 4 = 0 ∧ s.atCall.port.answers .read s.pc.toNat 4 = false) :=
  ⟨rfl, ⟨rfl, rfl⟩, by decide, by decide, by decide⟩

/-- Ok; Invalid with P5 false and true; an alignment violation; a memory failure. -/
theorem witness_StopRule :
    (let s := about 0x60000000; s.running = true ∧ s.atCall.port.hooked = true ∧ ∃ t, step s = .next t ∧ t.outcome = some .ok) ∧
    (let s := about 0; s.running = true ∧ s.atCall.port.hooked = true ∧ ∃ t, step s = .next t ∧ t.running = true) ∧
    (let s := { about 0 with params := { haltOnInvalid := true } }
     s.running = true ∧ s.atCall.port.hooked = true ∧ ∃ t, step s = .next t ∧ t.running = false) ∧
    (let s := about 0x80600001; s.running = true ∧ s.atCall.port.hooked = true ∧ ∃ t, step s = .next t ∧ t.running = false) ∧
    (let s := { about 0 with port := { hooked := true, ranges := [] } }
     s.running = true ∧ s.atCall.port.hooked = true ∧ ∃ t, step s = .next t ∧ t.running = false) :=
  ⟨⟨rfl, rfl, _, rfl, rfl⟩, ⟨rfl, rfl, _, rfl, rfl⟩, ⟨rfl, rfl, _, rfl, rfl⟩, ⟨rfl, rfl, _, rfl, rfl⟩, ⟨rfl, rfl, _, rfl, rfl⟩⟩

theorem witness_InvariantKept : State.Inv (about 0x90000004) ∧ ∃ t, step (about 0x90000004) = .next t :=
  ⟨⟨⟨by decide, by decide⟩, by decide, by decide, by decide⟩, _, rfl⟩

theorem witness_PcAdvance : ∃ t, exec (.addi 3 0 5) vectorStart = .next t ∧ writesPc (.addi 3 0 5) = false ∧ t.outcome = some .ok :=
  ⟨_, rfl, rfl, rfl⟩

/-- A memory failure just above a range, an alignment violation, and an invalid instruction. -/
theorem witness_FailuresChangeNothing :
    (∃ t o, exec (.lwz 3 4 0) (withGpr 4 0x10000) = .next t ∧ t.outcome = some o ∧ o.code = 1 ∧ isMultiStore (.lwz 3 4 0) = false) ∧
    (∃ t o, exec (.stw 3 4 0) (withGpr 4 0xFFFF) = .next t ∧ t.outcome = some o ∧ o.code = 3 ∧ isMultiStore (.stw 3 4 0) = false) ∧
    (∃ t d, exec (.tw 31 0 0 0) vectorStart = .next t ∧ t.outcome = some (.invalid d)) :=
  ⟨⟨_, _, rfl, rfl, rfl, rfl⟩, ⟨_, _, rfl, rfl, rfl, rfl⟩, ⟨_, _, rfl, rfl⟩⟩

theorem witness_SystemStateWriters :
    (∃ t, exec (.mtmsr 3 0 0 0) (withGpr 3 1) = .next t ∧ t.msr ≠ (withGpr 3 1).msr) ∧
    (∃ t, exec (.sc 2) vectorStart = .next t ∧ t.srr0 ≠ vectorStart.srr0) ∧
    (∃ t, exec (.addi 3 0 5) vectorStart = .next t ∧ isStore (.addi 3 0 5) = false) ∧
    (∃ t, exec (.tlbsync 0 0 0 0) vectorStart = .next t ∧ t.lastInvalid ≠ vectorStart.lastInvalid) :=
  ⟨⟨_, rfl, by decide⟩, ⟨_, rfl, by decide⟩, ⟨_, rfl, rfl⟩, ⟨_, rfl, by decide⟩⟩

/-- Both ends of the exception bits: 3 and 23. -/
theorem witness_FpscrDerived :
    (∃ t, exec (.mtfsb1 3 0 0 false) vectorStart = .next t ∧ t.fpscr ≠ vectorStart.fpscr ∧ newException vectorStart.fpscr t.fpscr) ∧
    (∃ t, exec (.mtfsb1 23 0 0 false) vectorStart = .next t ∧ t.fpscr ≠ vectorStart.fpscr ∧ newException vectorStart.fpscr t.fpscr) :=
  ⟨⟨_, rfl, by decide, 3, by decide⟩, ⟨_, rfl, by decide, 23, by decide⟩⟩

theorem witness_MsrHasNoEffect : (∀ z, Instr.addi 3 0 5 ≠ .sc z) ∧ (∀ z6 z11 z16 z31, Instr.addi 3 0 5 ≠ .rfi z6 z11 z16 z31) ∧
    (∀ rd z11 z16 z31, Instr.addi 3 0 5 ≠ .mfmsr rd z11 z16 z31) ∧ ∃ t, exec (.addi 3 0 5) vectorStart = .next t :=
  ⟨nofun, nofun, nofun, _, rfl⟩

/-- The last word, the last halfword and the last byte of the address space; an update form whose base is its destination. -/
theorem witness_Loads :
    (let s := withGpr 4 0xFFFFFFFC
     ∃ f, loadForm (.lwz 3 4 0) s = some f ∧ f.ea.toNat % f.width.bytes = 0 ∧ s.atCall.port.answers .read f.ea.toNat f.width.bytes = true) ∧
    (let s := withGpr 4 0
     ∃ f, loadForm (.lhau 4 4 0xFFFE) s = some f ∧ f.ea.toNat % f.width.bytes = 0 ∧
       s.atCall.port.answers .read f.ea.toNat f.width.bytes = true) ∧
    (let s := withGpr 4 0xFFFFFFFF
     ∃ f, loadForm (.lbzx 3 4 0 0) s = some f ∧ f.ea.toNat % f.width.bytes = 0 ∧
       s.atCall.port.answers .read f.ea.toNat f.width.bytes = true) :=
  ⟨⟨_, rfl, by decide, by decide⟩, ⟨_, rfl, by decide, by decide⟩, ⟨_, rfl, by decide, by decide⟩⟩

theorem witness_Stores :
    (let s := withGpr 4 0xFFFFFFFC
     ∃ f, storeForm (.stwu 4 4 0) s = some f ∧ f.ea.toNat % f.width.bytes = 0 ∧ s.atCall.port.answers .write f.ea.toNat f.width.bytes = true) ∧
    (let s := withGpr 4 0xFFFF
     ∃ f, storeForm (.stb 3 4 0) s = some f ∧ f.ea.toNat % f.width.bytes = 0 ∧ s.atCall.port.answers .write f.ea.toNat f.width.bytes = true) :=
  ⟨⟨_, rfl, by decide, by decide⟩, ⟨_, rfl, by decide, by decide⟩⟩

theorem witness_FloatLoads :
    (let s := withGpr 4 0xFFFFFFF8
     ∃ f, floatLoadForm (.lfd 3 4 0) s = some f ∧ f.ea.toNat % f.width.bytes = 0 ∧
       s.atCall.port.answers .read f.ea.toNat f.width.bytes = true) ∧
    (let s := withGpr 4 4
     ∃ f, floatLoadForm (.lfsux 3 4 0 0) s = some f ∧ f.ea.toNat % f.width.bytes = 0 ∧
       s.atCall.port.answers .read f.ea.toNat f.width.bytes = true) :=
  ⟨⟨_, rfl, by decide, by decide⟩, ⟨_, rfl, by decide, by decide⟩⟩

theorem witness_FloatStores :
    (let s := withGpr 4 0xFFF8
     ∃ f, floatStoreForm (.stfdu 3 4 0) s = some f ∧ f.ea.toNat % f.width.bytes = 0 ∧
       s.atCall.port.answers .write f.ea.toNat f.width.bytes = true) ∧
    (let s := withGpr 4 4
     ∃ f, floatStoreForm (.stfiwx 3 0 4 0) s = some f ∧ f.ea.toNat % f.width.bytes = 0 ∧
       s.atCall.port.answers .write f.ea.toNat f.width.bytes = true) :=
  ⟨⟨_, rfl, by decide, by decide⟩, ⟨_, rfl, by decide, by decide⟩⟩

/-- Misaligned by one and by half a width; aligned just above a range and just below one. -/
theorem witness_SingleAccessFails :
    (∃ ea w, singleAccess (.lwz 3 4 0) (withGpr 4 0x1001) = some (.read, ea, w) ∧ ea.toNat % w.bytes ≠ 0) ∧
    (∃ ea w, singleAccess (.stfd 3 4 0) (withGpr 4 0x1004) = some (.write, ea, w) ∧ ea.toNat % w.bytes ≠ 0) ∧
    (∃ ea w, singleAccess (.lwz 3 4 0) (withGpr 4 0x10000) = some (.read, ea, w) ∧ ea.toNat % w.bytes = 0 ∧
      (withGpr 4 0x10000).atCall.port.answers .read ea.toNat w.bytes = false) ∧
    (∃ ea w, singleAccess (.stb 3 4 0) (withGpr 4 0xFFEFFFFF) = some (.write, ea, w) ∧ ea.toNat % w.bytes = 0 ∧
      (withGpr 4 0xFFEFFFFF).atCall.port.answers .write ea.toNat w.bytes = false) :=
  ⟨⟨_, _, rfl, by decide⟩, ⟨_, _, rfl, by decide⟩, ⟨_, _, rfl, by decide, by decide⟩, ⟨_, _, rfl, by decide, by decide⟩⟩

/-- One register and all thirty-two; one byte, thirty-two bytes, and none. -/
theorem witness_MultipleLoads :
    (∃ f, multiLoadForm (.lmw 31 0 0xFFFC) vectorStart = some f ∧
      ∀ k, k < f.count → (vectorStart.afterCalls (k + 1)).port.answers .read (f.address k).toNat f.width.bytes = true) ∧
    (∃ f, multiLoadForm (.lmw 0 0 0x1000) vectorStart = some f ∧
      ∀ k, k < f.count → (vectorStart.afterCalls (k + 1)).port.answers .read (f.address k).toNat f.width.bytes = true) ∧
    (∃ f, multiLoadForm (.lswi 31 0 0 0) vectorStart = some f ∧
      ∀ k, k < f.count → (vectorStart.afterCalls (k + 1)).port.answers .read (f.address k).toNat f.width.bytes = true) ∧
    (∃ f, multiLoadForm (.lswx 5 0 0 0) vectorStart = some f ∧
      ∀ k, k < f.count → (vectorStart.afterCalls (k + 1)).port.answers .read (f.address k).toNat f.width.bytes = true) :=
  ⟨⟨_, rfl, by decide⟩, ⟨_, rfl, by decide⟩, ⟨_, rfl, by decide⟩, ⟨_, rfl, by decide⟩⟩

theorem witness_MultipleStores :
    (∃ w l, multiStoreForm (.stmw 30 0 0x1000) vectorStart = some (w, l) ∧
      ∀ (k : Nat) (h : k < l.length), (vectorStart.afterCalls (k + 1)).port.answers .write l[k].1.toNat w.bytes = true) ∧
    (∃ w l, multiStoreForm (.stswi 31 0 5 0) vectorStart = some (w, l) ∧
      ∀ (k : Nat) (h : k < l.length), (vectorStart.afterCalls (k + 1)).port.answers .write l[k].1.toNat w.bytes = true) ∧
    (∃ w l, multiStoreForm (.stswx 31 0 0 0) vectorStart = some (w, l) ∧
      ∀ (k : Nat) (h : k < l.length), (vectorStart.afterCalls (k + 1)).port.answers .write l[k].1.toNat w.bytes = true) ∧
    (∃ w l, multiStoreForm (.dcbz 0 0 4 0) (withGpr 4 0xFFFF) = some (w, l) ∧
      ∀ (k : Nat) (h : k < l.length), ((withGpr 4 0xFFFF).afterCalls (k + 1)).port.answers .write l[k].1.toNat w.bytes = true) :=
  ⟨⟨_, _, rfl, by decide⟩, ⟨_, _, rfl, by decide⟩, ⟨_, _, rfl, by decide⟩, ⟨_, _, rfl, by decide⟩⟩

/-- The last word of a range answers and the next does not; the port disconnects after the first call; a misaligned `lmw`. -/
theorem witness_MultipleAccessFails :
    (let s := withGpr 4 0xFFFC
     ∃ f, multiLoadForm (.lmw 30 4 0) s = some f ∧ 1 < f.count ∧
       (∀ j, j < 1 → (s.afterCalls (j + 1)).port.answers .read (f.address j).toNat f.width.bytes = true) ∧
       (s.afterCalls 2).port.answers .read (f.address 1).toNat f.width.bytes = false) ∧
    (let s := withGpr 4 0xFFFC
     ∃ w l, ∃ h : 1 < l.length, multiStoreForm (.stmw 30 4 0) s = some (w, l) ∧
       (∀ (j : Nat) (hj : j < l.length), j < 1 → (s.afterCalls (j + 1)).port.answers .write l[j].1.toNat w.bytes = true) ∧
       (s.afterCalls 2).port.answers .write l[1].1.toNat w.bytes = false) ∧
    (let s := { vectorStart with traffic := [{}, { port := some { hooked := false, ranges := [] } }] }
     ∃ f, multiLoadForm (.lmw 30 0 0) s = some f ∧ 1 < f.count ∧
       (∀ j, j < 1 → (s.afterCalls (j + 1)).port.answers .read (f.address j).toNat f.width.bytes = true) ∧
       (s.afterCalls 2).port.answers .read (f.address 1).toNat f.width.bytes = false) ∧
    ((vectorStart.eaD 0 0xFFFF).toNat % 4 ≠ 0) :=
  ⟨⟨_, rfl, by decide, by decide, by decide⟩, ⟨_, _, by decide, rfl, by decide, by decide⟩,
    ⟨_, rfl, by decide, by decide, by decide⟩, by decide⟩

/-- The numbers beside the refused ones. -/
theorem witness_RoundTrips : ∀ k ∈ [0, 267, 270, 283, 286, 1023],
    let n : SprNum := BitVec.ofNat 10 k
    n.toNat ≠ 268 ∧ n.toNat ≠ 269 ∧ n.toNat ≠ 284 ∧ n.toNat ≠ 285 := by decide

theorem witness_RoundTrips_mask : (0x01 : BitVec 8).getMsbD (31 / 4) = true ∧ (0x80 : BitVec 8).getMsbD (0 / 4) = true := by decide

theorem witness_ReturnFromInterrupt : { vectorStart with pc := 0xFFFFFFFC }.pc.toNat % 4 = 0 := by decide

theorem witness_Unimplemented : ∀ i ∈ [Instr.lwarx 3 0 5 0, .stwcxDot 3 0 5 0, .mfsr 3 0 15 0 0, .mfsrin 3 0 5 0, .mtsr 3 0 15 0 0,
    .mtsrin 3 0 5 0, .tlbie 0 0 5 0, .tlbsync 0 0 0 0, .tw 31 0 0 0, .twi 31 0 0], unimplementedTag i ≠ none := by decide

theorem witness_FloatCommit :
    (∃ fmt frd r rc, arithForm (.fadds 1 2 3 0 true) vectorStart = some (fmt, frd, r, rc)) ∧
    (∃ fmt frd r rc, arithForm (.frsqrte 1 0 3 0 false) vectorStart = some (fmt, frd, r, rc)) :=
  ⟨⟨_, _, _, _, rfl⟩, ⟨_, _, _, _, rfl⟩⟩

/-- A quiet and a signalling NaN, with the smallest and the largest fraction. -/
theorem witness_NaNOperands : isNaN 0x7FF8000000000000 = true ∧ isNaN 0x7FF0000000000001 = true ∧ isNaN 0xFFFFFFFFFFFFFFFF = true ∧
    isSNaN 0x7FF0000000000001 = true ∧ isSNaN 0xFFFFFFFFFFFFFFFF = false := by decide

/-- The value of 1.0. -/
theorem valueOf_one : valueOf 0x3FF0000000000000 = 1 := by
  simp [valueOf]

/-- The value of a zero of either sign. -/
theorem valueOf_zero : valueOf 0 = 0 ∧ valueOf 0x8000000000000000 = 0 := by
  constructor <;> simp [valueOf]

/-- Finite operands: the largest, and 1, whose value is not zero; and a zero, whose value is. -/
theorem witness_FiniteArithmetic : isFinite 0x7FEFFFFFFFFFFFFF = true ∧ isFinite 0x3FF0000000000000 = true ∧
    valueOf 0x3FF0000000000000 ≠ 0 ∧ isFinite 0x8000000000000000 = true ∧ valueOf 0x8000000000000000 = 0 :=
  ⟨by decide, by decide, by rw [valueOf_one]; norm_num, by decide, valueOf_zero.2⟩

/-- Operands that are no NaN: infinities of both signs, zeros of both signs, and a finite value that is not zero; with them every
clause's premises are met. -/
theorem witness_SpecialValues :
    isNaN 0x7FF0000000000000 = false ∧ isNaN 0xFFF0000000000000 = false ∧ isNaN 0x8000000000000000 = false ∧
      isNaN 0x3FF0000000000000 = false ∧
      isFinite 0x7FF0000000000000 = false ∧ isFinite 0xFFF0000000000000 = false ∧
      (0x7FF0000000000000 : DWord).getMsbD 0 ≠ (0xFFF0000000000000 : DWord).getMsbD 0 ∧
      (isFinite 0x8000000000000000 = true ∧ valueOf 0x8000000000000000 = 0) ∧
      (isFinite 0x3FF0000000000000 = true ∧ valueOf 0x3FF0000000000000 ≠ 0) :=
  ⟨by decide, by decide, by decide, by decide, by decide, by decide, by decide, ⟨by decide, valueOf_zero.2⟩,
    ⟨by decide, by rw [valueOf_one]; norm_num⟩⟩

/-- A fused multiply-add whose result is a NaN, and one whose result is none. -/
theorem witness_NegatedForms :
    isNaN (fpMulAdd .double 0 false 0x7FF0000000000000 0 0x3FF0000000000000).value = true ∧
      isNaN (fpMulAdd .double 0 false 0x7FF0000000000000 0x3FF0000000000000 0).value = false := by decide

theorem witness_SingleResults :
    ∃ frd r rc, arithForm (.fadds 1 2 3 0 false) vectorStart = some (.single, frd, r, rc) ∧ isNaN r.value = false :=
  ⟨_, _, _, rfl, by decide⟩

/-- The value of 2^-127, a binary64 normal below the reciprocals that binary32 holds as normals. -/
theorem valueOf_small : valueOf 0x3800000000000000 = 1 / 2 ^ 127 := by
  simp [valueOf]

/-- The rounded reciprocal of 2^-127 is 2^127, without a flag. -/
theorem roundsTo_small : RoundsTo .single 0 (1 / valueOf 0x3800000000000000)
    { value := 0x47E0000000000000, flags := 0, fr := false, fi := false } := by
  rw [valueOf_small]
  have h := roundTo_roundsTo .single 0 false (num := 1) (den := 1) (by decide) (by decide) 127
  have e : (1 : ℚ) / (1 / 2 ^ 127) = (if false then -1 else 1) * (((1 : Nat) : ℚ) / ((1 : Nat) : ℚ) * 2 ^ (127 : Int)) := by
    norm_num
  have v : roundTo .single 0 false 1 1 127 = { value := 0x47E0000000000000, flags := 0, fr := false, fi := false } := by
    decide
  rw [e, ← v]
  exact h

/-- Both zeros, both infinities, a negative value; 2^-127, whose reciprocal does not overflow; and 1. -/
theorem witness_Estimates :
    isNaN 0 = false ∧ isNaN 0x8000000000000000 = false ∧ (isNaN 0x7FF0000000000000 = false ∧ isFinite 0x7FF0000000000000 = false) ∧
      (isNaN 0xBFF0000000000000 = false ∧ (0xBFF0000000000000 : DWord).getMsbD 0 = true ∧
        (0xBFF0000000000000 : DWord) ≠ 0x8000000000000000) ∧
      (isNaN 0x3800000000000000 = false ∧ isFinite 0x3800000000000000 = true ∧ valueOf 0x3800000000000000 ≠ 0 ∧
        |valueOf 0x3800000000000000| ≤ 2 ^ 126 ∧ 0 < valueOf 0x3800000000000000) ∧
      (isNaN 0x3FF0000000000000 = false ∧ isFinite 0x3FF0000000000000 = true ∧ valueOf 0x3FF0000000000000 ≠ 0 ∧
        |valueOf 0x3FF0000000000000| ≤ 2 ^ 126 ∧ 0 < valueOf 0x3FF0000000000000) := by
  refine ⟨by decide, by decide, ⟨by decide, by decide⟩, ⟨by decide, by decide, by decide⟩, ⟨by decide, by decide, ?_⟩,
    by decide, by decide, ?_⟩
  · rw [valueOf_small]
    norm_num
  · rw [valueOf_one]
    norm_num

/-- The ends of the exponent field of a binary32 pattern, and of the three cases of a binary64 pattern's. -/
theorem witness_SingleDouble : ((0x00000000 : Word).extractLsb' 23 8).toNat ≠ 255 ∧ ((0x7F7FFFFF : Word).extractLsb' 23 8).toNat ≠ 255 ∧
    ((0xFF800000 : Word).extractLsb' 23 8).toNat = 255 ∧
    ((0x3810000000000000 : DWord).extractLsb' 52 11).toNat = 897 ∧ (0x8000000000000000 : DWord).toNat % 2 ^ 63 = 0 ∧
    ((0x380FFFFFFFFFFFFF : DWord).extractLsb' 52 11).toNat = 896 ∧ ((0x36A0000000000000 : DWord).extractLsb' 52 11).toNat = 874 ∧
    ((0x369FFFFFFFFFFFFF : DWord).extractLsb' 52 11).toNat = 873 := by decide

/-- The values R421 and R422 list. -/
theorem test_single_double :
    [(0x3FF0000000000000, 0x3F800000), (0x3FB999999999999A, 0x3DCCCCCC), (0x36A0000000000000, 0x00000001),
      (0x36B8000000000000, 0x00000003), (0x380FFFFFC0000000, 0x007FFFFF), (0x3690000000000000, 0x00000000),
      (0x7FF8000000000000, 0x7FC00000), (0x8000000000000000, 0x80000000), (0x47F0000000000000, 0x7F800000),
      (0x7FF0000000000001, 0x7F800000)].all (fun c => toSingle c.1 == c.2) = true ∧
    [((0x3F800000 : Word), (0x3FF0000000000000 : DWord)), (0xBFC00000, 0xBFF8000000000000), (0x00000001, 0x36A0000000000000),
      (0x00400000, 0x3800000000000000), (0x007FFFFF, 0x380FFFFFC0000000), (0x7F7FFFFF, 0x47EFFFFFE0000000),
      (0x7F800001, 0x7FF0000020000000), (0x3DCCCCCD, 0x3FB99999A0000000)].all (fun c => toDouble c.1 == c.2) = true := by
  decide

/-- An FPSCR with every enable bit and NI set, beside one with none. -/
theorem witness_EnablesChangeNoResult :
    (∃ r, arithForm (.fadd 1 2 3 0 false) vectorStart = some r) ∧
      (∀ k, k < 24 ∨ 30 ≤ k → (0x000000FC : Word).getMsbD k = vectorStart.fpscr.getMsbD k) ∧
      (∃ t, exec (.fadd 1 2 3 0 false) vectorStart = .next t) ∧
      (∃ u, exec (.fadd 1 2 3 0 false) { vectorStart with fpscr := 0x000000FC } = .next u) := by
  refine ⟨⟨_, rfl⟩, ?_, ⟨_, rfl⟩, ⟨_, rfl⟩⟩
  intro k hk
  have h0 : vectorStart.fpscr.getMsbD k = false := BitVec.getMsbD_zero
  rw [h0]
  rcases Nat.lt_or_ge k 32 with h | h
  · have : ∀ j : Fin 32, (j.val < 24 ∨ 30 ≤ j.val) → (0x000000FC : Word).getMsbD j.val = false := by decide
    exact this ⟨k, h⟩ hk
  · exact BitVec.getMsbD_of_ge _ _ h

end Sys2Proof.Tests
end

/-! PROOFS of the family 10_state.md: what holds of every instruction and of every step. One inversion theorem, `exec_runs`, says for
all instructions what each can do (`Effect`); the statements follow from it by the cases of `Effect` and never unfold `exec` again. -/

namespace Sys2Proof.Machine

/-! ## Calls of the port, one after another -/

/-- Calls on top of calls are calls. -/
theorem afterCalls_add (s : State) (n m : Nat) : s.afterCalls (n + m) = (s.afterCalls n).afterCalls m := by
  induction m with
  | zero => rfl
  | succ m ih => exact congrArg State.atCall ih

/-- What some number of calls of the core make of a state: at most the image, the port and the traffic differ, and the image by more
than what others do only where the core `writes` (20_memory.md R74; log 6). -/
structure CallsLead (writes : Bool) (s u : State) : Prop where
  fields : u = { s with mem := u.mem, port := u.port, traffic := u.traffic }
  wf : Memory.wf s.mem → Memory.wf u.mem
  calls : ∃ n, u.port = (s.afterCalls n).port ∧ u.traffic = (s.afterCalls n).traffic ∧ (writes = false → u = s.afterCalls n)

namespace CallsLead

variable {writes : Bool} {s t u : State}

/-- Calls that only read. -/
theorem afterCalls (s : State) (n : Nat) : CallsLead writes s (s.afterCalls n) :=
  ⟨afterCalls_fields s n, fun h => afterCalls_wf h n, n, rfl, rfl, fun _ => rfl⟩

theorem refl (s : State) : CallsLead writes s s := afterCalls s 0

theorem trans (h1 : CallsLead writes s t) (h2 : CallsLead writes t u) : CallsLead writes s u := by
  obtain ⟨n, hp, ht, hn⟩ := h1.calls
  obtain ⟨m, hp', ht', hm⟩ := h2.calls
  obtain ⟨ep, et⟩ := afterCalls_port_congr hp ht m
  refine ⟨environment_trans h1.fields h2.fields, h2.wf ∘ h1.wf, n + m, ?_, ?_, fun hw => ?_⟩ <;> rw [afterCalls_add]
  · exact hp'.trans ep
  · exact ht'.trans et
  · rw [← hn hw]
    exact hm hw

/-- One write of the core, whatever comes of it. -/
theorem memWrite (s : State) (a : Word) (w : Width) (v : DWord) : CallsLead true s (s.memWrite a w v).1 := by
  refine ⟨memWrite_fields s a w v, fun h => memWrite_wf h a w v, ?_⟩
  rcases memWrite_cases s a w v with ⟨h, -⟩ | ⟨h, -⟩ | ⟨h, -⟩ <;> rw [h]
  · exact ⟨1, rfl, rfl, nofun⟩
  · exact ⟨0, rfl, rfl, nofun⟩
  · exact ⟨1, rfl, rfl, nofun⟩

/-- A sequence of writes, whatever comes of it. -/
theorem writeSeq (w : Width) (l : List (Word × DWord)) (s : State) : CallsLead true s (State.writeSeq w l s).1 := by
  induction l generalizing s with
  | nil => exact refl s
  | cons c l ih =>
    obtain ⟨a, v⟩ := c
    have h0 := memWrite s a w v
    rw [State.writeSeq]
    revert h0
    rcases s.memWrite a w v with ⟨t, _ | o⟩ <;> intro h0
    · exact h0.trans (ih t)
    · exact h0

end CallsLead

/-- An instruction that stores by many accesses writes the image. -/
theorem isStore_of_isMultiStore {i : Instr} (h : isMultiStore i = true) : isStore i = true := by
  cases i with
  | stmw | stswi | stswx | dcbz => rfl
  | _ => cases h

/-! ## FX and the exception bits (10_state.md R37) -/

theorem three_le_of_isExceptionBit {k : Nat} (h : isExceptionBit k = true) : 3 ≤ k := by
  unfold isExceptionBit at h
  simp only [Bool.or_eq_true, Bool.and_eq_true, decide_eq_true_eq] at h
  omega

/-- Words that agree on the exception bits have the same new exceptions. -/
theorem newException_congr {old a b : Word} (h : ∀ k, isExceptionBit k = true → a.getMsbD k = b.getMsbD k) :
    newException old a ↔ newException old b := by
  constructor <;> rintro ⟨k, he, hn, ho⟩
  · exact ⟨k, he, h k he ▸ hn, ho⟩
  · exact ⟨k, he, (h k he).symm ▸ hn, ho⟩

/-- Where no exception bit is 1 but those that were, none is new. -/
theorem not_newException {old new : Word}
    (h : ∀ k, isExceptionBit k = true → new.getMsbD k = true → old.getMsbD k = true) : ¬ newException old new := by
  rintro ⟨k, he, hn, ho⟩
  rw [h k he hn] at ho
  cases ho

/-- A commit that takes an exception bit to 1 sets FX, whatever its flags and its change. -/
theorem commitFpscr_setsFX {old flags : Word} {change : Word → Word}
    (h : newException old (commitFpscr old flags change)) : (commitFpscr old flags change).getMsbD 0 = true := by
  have hbits : newException old (commitFpscr old flags change) ↔ newException old (change (old ||| flags)) := by
    refine newException_congr fun k hk => ?_
    have h3 := three_le_of_isExceptionBit hk
    rw [commitFpscr, getMsbD_deriveFpscr, if_neg (by omega), if_neg (by omega), getMsbD_raiseFX, if_neg (by omega)]
  have hraise := (newException_iff _ _).mp (hbits.mp h)
  rw [commitFpscr, getMsbD_deriveFpscr, if_neg (by decide), if_neg (by decide), getMsbD_raiseFX, if_pos ⟨rfl, hraise⟩]

/-- Clearing bits of FPSCR makes no exception new (R381). -/
theorem not_newException_and (old m : Word) : ¬ newException old (deriveFpscr (old &&& m)) := by
  refine not_newException fun k hk hn => ?_
  have h3 := three_le_of_isExceptionBit hk
  rw [getMsbD_deriveFpscr, if_neg (by omega), if_neg (by omega), BitVec.getMsbD_and, Bool.and_eq_true] at hn
  exact hn.1

/-- Replacing selected bits by zeros makes no exception new (R384). -/
theorem not_newException_replace_zero (old m : Word) : ¬ newException old (replaceFpscr old m 0) := by
  refine not_newException fun k hk hn => ?_
  have h3 := three_le_of_isExceptionBit hk
  rw [getMsbD_replaceFpscr _ _ _ _ (by omega) (by omega)] at hn
  cases hm : m.getMsbD k
  · simpa [hm] using hn
  · simp [hm] at hn

/-- R37's rule for FX, from which `mtfsfi` and `mtfsf` are excepted. -/
def RaisesFX (i : Instr) (old new : Word) : Prop :=
  (∀ d z9 z11 imm z20 rc, i ≠ .mtfsfi d z9 z11 imm z20 rc) → (∀ z6 fm z15 frb rc, i ≠ .mtfsf z6 fm z15 frb rc) →
    newException old new → new.getMsbD 0 = true

/-! ## What an instruction can do -/

/-- Everything an instruction can make of a state. -/
inductive Effect (s : State) : Instr → State → Prop
  /-- Completes at the next word: at most GPRs, FPRs, CR and XER, and what its calls of the port lead to. -/
  | completes {i : Instr} {u : State} (gprs : Vector Word 32) (fprs : Vector DWord 32) (cr xer : Word)
      (hu : CallsLead (isStore i) s u) :
      Effect s i (State.completed { u with gprs := gprs, fprs := fprs, cr := cr, xer := xer })
  /-- Completes at the next word with a new FPSCR, whose derived bits are right. -/
  | writesFpscr {i : Instr} (fprs : Vector DWord 32) (cr fpscr : Word) (hd : fpscrConsistent fpscr)
      (hx : RaisesFX i s.fpscr fpscr) :
      Effect s i (State.completed { s with fprs := fprs, cr := cr, fpscr := fpscr })
  /-- Completes at the next word with one special-purpose register written. -/
  | writesSpr {rs : GprNum} {n : SprNum} {z31 : BitVec 1} {u : State} (hu : s.writeSpr n (s.gpr rs) = some u) :
      Effect s (.mtspr rs n z31) u.completed
  /-- Completes at the next word with a new MSR. -/
  | writesMsr {rs : GprNum} {z11 z16 : BitVec 5} {z31 : BitVec 1} :
      Effect s (.mtmsr rs z11 z16 z31) (State.completed { s with msr := s.gpr rs })
  /-- Branches: LR, CTR and PC. -/
  | branches {i : Instr} (lr ctr pc : Word) (hi : writesPc i = true)
      (hpc : aligned s.pc .word = true → aligned pc .word = true) :
      Effect s i (State.redirected { s with lr := lr, ctr := ctr } pc)
  /-- Takes the system-call exception. -/
  | traps {z : BitVec 26} (srr0 srr1 msr : Word) :
      Effect s (.sc z) (State.redirected { s with srr0 := srr0, srr1 := srr1, msr := msr } (systemCallVector s.msr))
  /-- Returns from it. -/
  | returns {z6 z11 z16 : BitVec 5} {z31 : BitVec 1} (msr : Word) :
      Effect s (.rfi z6 z11 z16 z31) (State.redirected { s with msr := msr } (s.srr0 &&& 0xFFFFFFFC))
  /-- Fails at a call: nothing but what the calls led to, and the outcome. -/
  | fails {i : Instr} {u : State} {o : StepOutcome} (hu : CallsLead (isMultiStore i) s u) (ho : o.code = 1 ∨ o.code = 3) :
      Effect s i (u.failed o)
  /-- Is reported invalid, with its own word. -/
  | reports {i : Instr} (tag : Tag) : Effect s i (s.reported tag (encode i))

/-- The instruction, in this state, has one of the effects as its result. -/
def Runs (i : Instr) (s : State) (r : Result) : Prop := ∃ t, r = .next t ∧ Effect s i t

section Endings

variable {i : Instr} (s : State)

/-! ### Endings that touch registers alone -/

theorem complete_runs (gprs : Vector Word 32) (fprs : Vector DWord 32) (cr xer : Word) :
    Runs i s (complete { s with gprs := gprs, fprs := fprs, cr := cr, xer := xer }) :=
  ⟨_, rfl, .completes (u := s) gprs fprs cr xer (.refl s)⟩

theorem Effect.of_fixedOnly {s t : State} (h : fixedOnly s t) : Effect s i t := by
  rw [h.1]
  exact .completes (u := s) t.gprs s.fprs t.cr t.xer (.refl s)

theorem finishResult_runs (r : GprNum) (v : Word) (rc : Bool) : Runs i s (finishResult r v rc s) := by
  obtain ⟨t, h, hf, -⟩ := finishResult_ends r v rc s
  exact ⟨t, h, .of_fixedOnly hf⟩

theorem finishCarry_runs (r : GprNum) (v : Word) (ca rc : Bool) : Runs i s (finishCarry r v ca rc s) := by
  obtain ⟨t, h, hf, -⟩ := finishCarry_ends r v ca rc s
  exact ⟨t, h, .of_fixedOnly hf⟩

theorem finishOverflow_runs (r : GprNum) (v : Word) (ov oe rc : Bool) : Runs i s (finishOverflow r v ov oe rc s) := by
  obtain ⟨t, h, hf, -⟩ := finishOverflow_ends r v ov oe rc s
  exact ⟨t, h, .of_fixedOnly hf⟩

theorem addCarrying_runs (rd : GprNum) (x y : Word) (cin oe rc : Bool) : Runs i s (addCarrying rd x y cin oe rc s) := by
  obtain ⟨t, h, hf, -⟩ := finishCarryOverflow_ends rd (carrySum x y cin) (carryOut x y cin)
    (overflows (x.toInt + y.toInt + bitInt cin)) oe rc s
  exact ⟨t, h, .of_fixedOnly hf⟩

theorem finishCompare_runs (n : CrField) (c : BitVec 4) : Runs i s (finishCompare n c s) :=
  complete_runs s s.gprs s.fprs (putField s.cr n c) s.xer

theorem finishCrBit_runs (d : CrBit) (b : Bool) : Runs i s (finishCrBit d b s) :=
  complete_runs s s.gprs s.fprs (putBitAt s.cr d b) s.xer

theorem setGpr_runs (r : GprNum) (v : Word) : Runs i s (complete (s.setGpr r v)) :=
  complete_runs s (s.setGpr r v).gprs s.fprs s.cr s.xer

/-! ### Floating-point endings -/

theorem finishFpMove_runs (r : FprNum) (v : DWord) (rc : Bool) : Runs i s (finishFpMove r v rc s) := by
  obtain ⟨t, h, hf, -, hw, -⟩ := finishFpMove_ends r v rc s
  refine ⟨t, h, ?_⟩
  rw [hf.1, hw]
  exact .completes (u := s) s.gprs t.fprs t.cr s.xer (.refl s)

theorem Effect.of_floatOnly {s t : State} (h : floatOnly s t) (hd : fpscrConsistent t.fpscr)
    (hx : RaisesFX i s.fpscr t.fpscr) : Effect s i t := by
  rw [h.1]
  exact .writesFpscr t.fprs t.cr t.fpscr hd hx

theorem finishFp_commit_runs (r : FprNum) (v : DWord) (flags : Word) (change : Word → Word) (rc : Bool) :
    Runs i s (finishFp r v (commitFpscr s.fpscr flags change) rc s) := by
  obtain ⟨t, h, hf, -, hw, -⟩ := finishFp_ends r v (commitFpscr s.fpscr flags change) rc s
  refine ⟨t, h, .of_floatOnly hf ?_ ?_⟩ <;> rw [hw]
  · exact commitFpscr_consistent _ _ _
  · exact fun _ _ => commitFpscr_setsFX

theorem finishArith_runs (fmt : FpFormat) (frd : FprNum) (r : FpResult) (rc : Bool) : Runs i s (finishArith fmt frd r rc s) :=
  finishFp_commit_runs s frd r.value r.flags _ rc

theorem finishToInt_runs (frd : FprNum) (r : IntResult) (rc : Bool) : Runs i s (finishToInt frd r rc s) :=
  finishFp_commit_runs s frd (s.params.fpHighWord ++ r.word) r.flags _ rc

theorem finishFpCompare_runs (d : CrField) (c : BitVec 4) (flags : Word) : Runs i s (finishFpCompare d c flags s) :=
  ⟨_, rfl, .writesFpscr s.fprs (putField s.cr d c) (commitFpscr s.fpscr flags fun w => putFpcc w c)
    (commitFpscr_consistent _ _ _) fun _ _ => commitFpscr_setsFX⟩

theorem finishFpscr_runs (w : Word) (rc : Bool) (hd : fpscrConsistent w) (hx : RaisesFX i s.fpscr w) :
    Runs i s (finishFpscr w rc s) := by
  obtain ⟨t, h, hf, -, hw, -⟩ := finishFpscr_ends w rc s
  refine ⟨t, h, .of_floatOnly hf ?_ ?_⟩ <;> rw [hw]
  · exact hd
  · exact hx

theorem execMcrfs_runs (d f : CrField) : Runs i s (execMcrfs d f s) :=
  ⟨_, rfl, .writesFpscr s.fprs (putField s.cr d (getField s.fpscr f)) _ (deriveFpscr_consistent _)
    fun _ _ hn => absurd hn (not_newException_and _ _)⟩

theorem execMtfsb0_runs (d : CrBit) (rc : Bool) : Runs i s (execMtfsb0 d rc s) :=
  finishFpscr_runs s _ rc (replaceFpscr_consistent _ _ _) fun _ _ hn => absurd hn (not_newException_replace_zero _ _)

theorem execMtfsb1_runs (d : CrBit) (rc : Bool) : Runs i s (execMtfsb1 d rc s) :=
  finishFpscr_runs s _ rc (commitFpscr_consistent _ _ _) fun _ _ => commitFpscr_setsFX

/-! ### Endings of the loads and stores -/

theorem afterCalls_failed_runs (n : Nat) {o : StepOutcome} (ho : o.code = 1 ∨ o.code = 3) :
    Runs i s (.next ((s.afterCalls n).failed o)) :=
  ⟨_, rfl, .fails (.afterCalls s n) ho⟩

theorem loadGpr_runs (w : Width) (conv : DWord → Word) (rd : GprNum) (ea : Word) (base : Option GprNum) :
    Runs i s (loadGpr w conv rd ea base s) := by
  rcases loadGpr_cases w conv rd ea base s with ⟨-, -, h⟩ | ⟨-, h⟩ | ⟨-, -, h⟩ <;> rw [h]
  · refine ⟨_, rfl, ?_⟩
    cases base <;> exact .completes (u := s.afterCalls 1) _ _ _ _ (.afterCalls s 1)
  · exact afterCalls_failed_runs s 0 (.inr rfl)
  · exact afterCalls_failed_runs s 1 (.inl rfl)

theorem loadFpr_runs (w : Width) (conv : DWord → DWord) (frd : FprNum) (ea : Word) (base : Option GprNum) :
    Runs i s (loadFpr w conv frd ea base s) := by
  rcases loadFpr_cases w conv frd ea base s with ⟨-, -, h⟩ | ⟨-, h⟩ | ⟨-, -, h⟩ <;> rw [h]
  · refine ⟨_, rfl, ?_⟩
    cases base <;> exact .completes (u := s.afterCalls 1) _ _ _ _ (.afterCalls s 1)
  · exact afterCalls_failed_runs s 0 (.inr rfl)
  · exact afterCalls_failed_runs s 1 (.inl rfl)

theorem storeValue_runs (hi : isStore i = true) (w : Width) (v : DWord) (ea : Word) (base : Option GprNum) :
    Runs i s (storeValue w v ea base s) := by
  rcases storeValue_cases w v ea base s with ⟨h1, h2, h⟩ | ⟨-, h⟩ | ⟨-, -, h⟩ <;> rw [h]
  · have hu : CallsLead (isStore i) s (s.atCall.putBytes ea w v) := by
      have hw := CallsLead.memWrite s ea w v
      rw [memWrite_ok v h1 h2] at hw
      rwa [hi]
    refine ⟨_, rfl, ?_⟩
    cases base <;> exact .completes (u := s.atCall.putBytes ea w v) _ _ _ _ hu
  · exact afterCalls_failed_runs s 0 (.inr rfl)
  · exact afterCalls_failed_runs s 1 (.inl rfl)

theorem setGprsFrom_completed_effect {u : State} (hu : CallsLead (isStore i) s u) (r : GprNum) (vs : List Word) :
    Effect s i (u.setGprsFrom r vs).completed := by
  rw [setGprsFrom_fields]
  exact .completes (u := u) _ u.fprs u.cr u.xer hu

theorem loadSeq_runs (w : Width) (as : List Word) (pack : List DWord → List Word) (r : GprNum) :
    Runs i s (loadSeq w as pack r s) := by
  obtain ⟨n, -, ⟨vs, -, h⟩ | ⟨o, hr, h⟩⟩ := loadSeq_cases w as pack r s <;> rw [h]
  · exact ⟨_, rfl, setGprsFrom_completed_effect s (.afterCalls s n) r _⟩
  · refine afterCalls_failed_runs s n ?_
    obtain ⟨a, rfl⟩ | ⟨a, rfl⟩ := readSeq_failure w as (congrArg Prod.snd hr)
    · exact .inr rfl
    · exact .inl rfl

theorem storeSeq_runs (hi : isMultiStore i = true) (w : Width) (l : List (Word × DWord)) : Runs i s (storeSeq w l s) := by
  have hu := CallsLead.writeSeq w l s
  rcases storeSeq_cases w l s with ⟨-, h⟩ | ⟨o, ho, h⟩ <;> rw [h]
  · rw [← isStore_of_isMultiStore hi] at hu
    exact ⟨_, rfl, .completes (State.writeSeq w l s).1.gprs _ _ _ hu⟩
  · rw [← hi] at hu
    refine ⟨_, rfl, .fails hu ?_⟩
    obtain ⟨a, rfl⟩ | ⟨a, rfl⟩ := writeSeq_failure w l ho
    · exact .inr rfl
    · exact .inl rfl

/-- The multiple-word instructions check the alignment of EA before any call (R69). -/
theorem alignedOrFail_runs {r : Result} (a : Word) (w : Width) (h : Runs i s r) :
    Runs i s (if aligned a w then r else fail (.alignment .data a w) s) := by
  split
  · exact h
  · exact afterCalls_failed_runs s 0 (.inr rfl)

/-! ### Endings that write PC -/

theorem aligned_registerTarget (r : Word) : aligned (registerTarget r) .word = true := aligned_mask r

theorem aligned_systemCallVector (msr : Word) : aligned (systemCallVector msr) .word = true := by
  unfold systemCallVector
  split <;> decide

theorem branchConditional_runs (hi : writesPc i = true) (target : Word) (bo : BitVec 5) (bi : CrBit) (lk : Bool)
    (ht : aligned s.pc .word = true → aligned target .word = true) : Runs i s (branchConditional target bo bi lk s) := by
  rw [branchConditional_eq]
  refine ⟨_, rfl, .branches (if lk then s.pc + 4 else s.lr) (s.branchCtr bo) _ hi fun hpc => ?_⟩
  split
  · exact ht hpc
  · exact aligned_add_four hpc

theorem execB_runs (hi : writesPc i = true) (li : BitVec 24) (aa lk : Bool) : Runs i s (execB li aa lk s) := by
  have hpc : aligned s.pc .word = true → aligned (s.branchTarget (displacementI li) aa) .word = true :=
    fun h => aligned_branchTarget aa h (aligned_displacementI li)
  refine ⟨_, rfl, ?_⟩
  cases lk
  · exact .branches s.lr s.ctr _ hi hpc
  · exact .branches (s.pc + 4) s.ctr _ hi hpc

/-! ### Moves to and from special-purpose registers, and reports -/

theorem reportInvalid_runs (tag : Tag) : Runs i s (reportInvalid tag (encode i) s) := ⟨_, rfl, .reports tag⟩

theorem execMfspr_runs (rd : GprNum) (n : SprNum) (z31 : BitVec 1) : Runs (.mfspr rd n z31) s (execMfspr rd n z31 s) := by
  unfold execMfspr
  split
  · exact setGpr_runs s rd _
  · exact reportInvalid_runs s .mfspr

theorem execMtspr_runs (rs : GprNum) (n : SprNum) (z31 : BitVec 1) : Runs (.mtspr rs n z31) s (execMtspr rs n z31 s) := by
  unfold execMtspr
  split
  · next u hu => exact ⟨_, rfl, .writesSpr hu⟩
  · exact reportInvalid_runs s .mtspr

theorem execMftb_runs (rd : GprNum) (n : SprNum) (z31 : BitVec 1) : Runs (.mftb rd n z31) s (execMftb rd n z31 s) := by
  unfold execMftb
  split
  · exact setGpr_runs s rd _
  · exact setGpr_runs s rd _
  · exact reportInvalid_runs s .mftb

end Endings

/-! ### Every instruction -/

/-- Every instruction in every state ends in a next state, by one of the effects. -/
theorem exec_runs (i : Instr) (s : State) : Runs i s (exec i s) := by
  cases i with
  | addi | addis | mulli | mulhw | mulhwu | andiDot | andisDot | ori | oris | xori | xoris | and | or | xor | nand | nor
  | andc | orc | eqv | extsb | extsh | cntlzw | rlwinm | rlwimi | rlwnm | slw | srw => exact finishResult_runs ..
  | addic | addicDot | subfic | sraw | srawi => exact finishCarry_runs ..
  | add | subf | neg | mullw | divw | divwu => exact finishOverflow_runs ..
  | addc | adde | addme | addze | subfc | subfe | subfme | subfze => exact addCarrying_runs ..
  | cmpi | cmp | cmpli | cmpl => exact finishCompare_runs ..
  | crand | cror | crxor | crnand | crnor | creqv | crandc | crorc => exact finishCrBit_runs ..
  | mfcr | mfmsr => exact setGpr_runs ..
  | mcrf | mtcrf | mcrxr | sync | isync | eieio | dcbt | dcbtst | dcbst | dcbf | dcbi | icbi => exact complete_runs ..
  | lbz | lbzu | lbzx | lbzux | lhz | lhzu | lhzx | lhzux | lha | lhau | lhax | lhaux | lwz | lwzu | lwzx | lwzux | lhbrx
  | lwbrx => exact loadGpr_runs ..
  | lfs | lfsu | lfsx | lfsux | lfd | lfdu | lfdx | lfdux => exact loadFpr_runs ..
  | stb | stbu | stbx | stbux | sth | sthu | sthx | sthux | stw | stwu | stwx | stwux | sthbrx | stwbrx | stfs | stfsu | stfsx
  | stfsux | stfd | stfdu | stfdx | stfdux | stfiwx => exact storeValue_runs s rfl ..
  | lmw => exact alignedOrFail_runs s _ .word (loadSeq_runs ..)
  | lswi | lswx => exact loadSeq_runs ..
  | stmw => exact alignedOrFail_runs s _ .word (storeSeq_runs s rfl ..)
  | stswi | stswx | dcbz => exact storeSeq_runs s rfl ..
  | b => exact execB_runs s rfl ..
  | bc _ _ bd aa => exact branchConditional_runs s rfl _ _ _ _ fun h => aligned_branchTarget aa h (aligned_displacementB bd)
  | bclr | bcctr => exact branchConditional_runs s rfl _ _ _ _ fun _ => aligned_registerTarget _
  | sc => exact ⟨_, rfl, .traps _ _ _⟩
  | rfi => exact ⟨_, rfl, .returns _⟩
  | mtmsr => exact ⟨_, rfl, .writesMsr⟩
  | mfspr => exact execMfspr_runs ..
  | mtspr => exact execMtspr_runs ..
  | mftb => exact execMftb_runs ..
  | twi | tw | lwarx | stwcxDot | mfsr | mfsrin | mtsr | mtsrin | tlbie | tlbsync => exact reportInvalid_runs ..
  | fadd | fadds | fsub | fsubs | fmul | fmuls | fdiv | fdivs | fmadd | fmadds | fmsub | fmsubs | fnmadd | fnmadds | fnmsub
  | fnmsubs | fres | frsqrte | frsp => exact finishArith_runs ..
  | fctiw | fctiwz => exact finishToInt_runs ..
  | fcmpu | fcmpo => exact finishFpCompare_runs ..
  | fmr | fneg | fabs | fnabs | mffs => exact finishFpMove_runs ..
  | mcrfs => exact execMcrfs_runs ..
  | mtfsb0 => exact execMtfsb0_runs ..
  | mtfsb1 => exact execMtfsb1_runs ..
  | mtfsfi =>
    exact finishFpscr_runs s _ _ (replaceFpscr_consistent _ _ _) fun hi _ => absurd rfl (hi _ _ _ _ _ _)
  | mtfsf => exact finishFpscr_runs s _ _ (replaceFpscr_consistent _ _ _) fun _ hi => absurd rfl (hi _ _ _ _ _)

theorem effect_of_exec {i : Instr} {s t : State} (h : exec i s = .next t) : Effect s i t := by
  obtain ⟨u, hu, he⟩ := exec_runs i s
  cases hu.symm.trans h
  exact he

namespace CallsLead

variable {writes : Bool} {s u : State} (h : CallsLead writes s u)
include h

/-! What calls leave of a state, field by field. -/

theorem pc_eq : u.pc = s.pc := by rw [h.fields]
theorem sprs_eq : u.sprs = s.sprs := by rw [h.fields]
theorem fpscr_eq : u.fpscr = s.fpscr := by rw [h.fields]
theorem msr_eq : u.msr = s.msr := by rw [h.fields]
theorem srr0_eq : u.srr0 = s.srr0 := by rw [h.fields]
theorem srr1_eq : u.srr1 = s.srr1 := by rw [h.fields]
theorem lastInvalid_eq : u.lastInvalid = s.lastInvalid := by rw [h.fields]
theorem surroundings : sameSurroundings s u := by rw [h.fields]; exact ⟨rfl, rfl, rfl, rfl⟩

theorem onlyCalls : onlyCalls writes s u := by
  obtain ⟨n, hp, ht, hn⟩ := h.calls
  refine ⟨n, hp, ht, fun hw a => ?_⟩
  rw [← hn hw]

end CallsLead

/-! ## O8, O9: the state after construction -/

/-- Settles O8: `State.reset` field by field. -/
theorem resetValues : Obligations.ResetValues := by
  refine ⟨fun r => ?_, fun r => ?_, rfl, rfl, rfl, rfl, rfl, rfl, rfl, fun _ => rfl, rfl, rfl, rfl, rfl⟩
  · exact Vector.getElem_replicate _
  · exact Vector.getElem_replicate _

/-- Settles O9: the image and the SPR file are empty, PC, FPSCR are 0 and there is no outcome yet. -/
theorem invariantAtReset : Obligations.InvariantAtReset where
  wf := ⟨⟨.nil, nofun⟩, ⟨.nil, nofun⟩, nofun⟩
  pcAligned := by decide
  fpscr := by decide
  stopped := nofun

/-! ## O10: what every step keeps -/

/-- The part of the invariant that holds also between the fetch and the Driver's act, when `running` is not yet settled. -/
structure State.Sound (s : State) : Prop where
  wf : s.WellFormed
  pcAligned : aligned s.pc .word = true
  fpscr : fpscrConsistent s.fpscr

theorem State.Inv.sound {s : State} (h : s.Inv) : s.Sound := ⟨h.wf, h.pcAligned, h.fpscr⟩

/-- Soundness speaks of four fields. -/
theorem State.Sound.of_eq {s t : State} (h : s.Sound) (hm : t.mem = s.mem) (hs : t.sprs = s.sprs) (hp : t.pc = s.pc)
    (hf : t.fpscr = s.fpscr) : t.Sound :=
  ⟨⟨hm ▸ h.wf.mem, hs ▸ h.wf.sprs⟩, hp ▸ h.pcAligned, hf ▸ h.fpscr⟩

theorem State.Sound.callsLead {writes : Bool} {s u : State} (h : s.Sound) (hu : CallsLead writes s u) : u.Sound :=
  ⟨⟨hu.wf h.wf.mem, hu.sprs_eq ▸ h.wf.sprs⟩, hu.pc_eq ▸ h.pcAligned, hu.fpscr_eq ▸ h.fpscr⟩

theorem State.Sound.completed {s : State} (h : s.Sound) : s.completed.Sound :=
  ⟨⟨h.wf.mem, h.wf.sprs⟩, aligned_add_four h.pcAligned, h.fpscr⟩

theorem State.Sound.reported {s : State} (h : s.Sound) (tag : Tag) (w : Word) : (s.reported tag w).Sound :=
  ⟨⟨h.wf.mem, h.wf.sprs⟩, aligned_add_four h.pcAligned, h.fpscr⟩

theorem State.Sound.failed {s : State} (h : s.Sound) (o : StepOutcome) : (s.failed o).Sound := h.of_eq rfl rfl rfl rfl

theorem State.Sound.writeSpr {s u : State} (h : s.Sound) {n : SprNum} {v : Word} (hu : s.writeSpr n v = some u) :
    u.Sound := by
  rcases writeSpr_cases hu with rfl | rfl | rfl | rfl | rfl | ⟨hc, rfl⟩
  case inr.inr.inr.inr.inr => exact ⟨⟨h.wf.mem, setSprCell_wf h.wf.sprs hc v⟩, h.pcAligned, h.fpscr⟩
  all_goals exact h.of_eq rfl rfl rfl rfl

theorem Effect.sound {i : Instr} {s t : State} (he : Effect s i t) (h : s.Sound) : t.Sound := by
  cases he with
  | completes gprs fprs cr xer hu => exact .completed ((h.callsLead hu).of_eq rfl rfl rfl rfl)
  | writesFpscr fprs cr fpscr hd => exact State.Sound.completed ⟨⟨h.wf.mem, h.wf.sprs⟩, h.pcAligned, hd⟩
  | writesSpr hu => exact (h.writeSpr hu).completed
  | writesMsr => exact .completed (h.of_eq rfl rfl rfl rfl)
  | branches lr ctr pc _ hpc => exact ⟨⟨h.wf.mem, h.wf.sprs⟩, hpc h.pcAligned, h.fpscr⟩
  | traps => exact ⟨⟨h.wf.mem, h.wf.sprs⟩, aligned_systemCallVector _, h.fpscr⟩
  | returns => exact ⟨⟨h.wf.mem, h.wf.sprs⟩, aligned_mask _, h.fpscr⟩
  | fails hu => exact (h.callsLead hu).failed _
  | reports tag => exact h.reported tag _

theorem dispatchStep_sound {s t : State} (h : s.Sound) (ht : dispatchStep s = .next t) : t.Sound := by
  obtain ⟨u, hu, hd⟩ := dispatchStep_cases s
  have hs : u.Sound := by
    rcases hu with rfl | rfl
    · exact h
    · exact h.callsLead (.afterCalls (writes := false) s 1)
  rcases hd with ⟨o, -, hd⟩ | ⟨w, e, -, -, hd⟩ | ⟨w, i, -, -, hd⟩ <;> rw [hd] at ht
  · cases ht
    exact hs.failed o
  · cases ht
    exact hs.reported _ w
  · exact (effect_of_exec ht).sound hs

/-- The Driver's act on a next state is what the invariant says of `running` (R139). -/
theorem State.Sound.settle {s : State} (h : s.Sound) : s.settle.Inv := by
  have hf := settle_fields s
  have hs : s.settle.Sound := h.of_eq (by rw [hf]) (by rw [hf]) (by rw [hf]) (by rw [hf])
  refine ⟨hs.wf, hs.pcAligned, hs.fpscr, fun o ho hr => ?_⟩
  rw [settle_running] at hr
  rw [hf] at ho ⊢
  rw [Option.mem_def] at ho
  simp only at ho
  rw [ho] at hr
  simpa using (Bool.and_eq_true_iff.mp hr).2

/-- Settles O10: a turn ends disconnected, with `running` cleared, or settles what one step of the Dispatcher has left. -/
theorem invariantKept : Obligations.InvariantKept := by
  intro s t h ht
  have hc : s.atCall.Sound := h.sound.callsLead (.afterCalls (writes := false) s 1)
  rcases step_cases s with ⟨-, hs⟩ | ⟨-, -, hs⟩ | ⟨-, -, hs⟩ <;> rw [hs] at ht
  · cases ht
  · cases ht
    exact ⟨⟨hc.wf.mem, hc.wf.sprs⟩, hc.pcAligned, hc.fpscr, fun _ _ hr => absurd hr Bool.false_ne_true⟩
  · cases hd : dispatchStep s.atCall.tick with
    | next u =>
      rw [hd] at ht
      cases ht
      exact (dispatchStep_sound (s := s.atCall.tick) (hc.of_eq rfl rfl rfl rfl) hd).settle
    | fault r => rw [hd] at ht; cases ht
    | refused r => rw [hd] at ht; cases ht

/-! ## O11 to O14: what holds of every instruction -/

/-- A write to the SPR file leaves the rest of the machine alone. -/
theorem writeSpr_fields {s u : State} {n : SprNum} {v : Word} (h : s.writeSpr n v = some u) :
    u = { s with xer := u.xer, lr := u.lr, ctr := u.ctr, srr0 := u.srr0, srr1 := u.srr1, sprs := u.sprs } := by
  rcases writeSpr_cases h with rfl | rfl | rfl | rfl | rfl | ⟨-, rfl⟩ <;> rfl

/-- Settles O11: an effect that neither fails nor is one of the six's ends by `completed` or `reported`. -/
theorem pcAdvance : Obligations.PcAdvance := by
  intro i s t hi ht ho
  cases effect_of_exec ht with
  | completes gprs fprs cr xer hu => exact congrArg (· + 4) hu.pc_eq
  | writesFpscr | writesMsr | reports => rfl
  | writesSpr hu => rw [writeSpr_fields hu]; rfl
  | branches lr ctr pc hb => rw [hi] at hb; cases hb
  | traps | returns => cases hi
  | fails hu hf =>
    cases ho
    rcases hf with hf | hf <;> cases hf

/-- The three ways to end: completed, failed at a call, or reported. -/
theorem Effect.outcome_cases {i : Instr} {s t : State} (he : Effect s i t) :
    t.outcome = some .ok ∨
      (∃ u o, CallsLead (isMultiStore i) s u ∧ (o.code = 1 ∨ o.code = 3) ∧ t = u.failed o) ∨
      ∃ tag, t = s.reported tag (encode i) := by
  cases he with
  | completes | writesFpscr | writesSpr | writesMsr | branches | traps | returns => exact .inl rfl
  | fails hu ho => exact .inr (.inl ⟨_, _, hu, ho, rfl⟩)
  | reports tag => exact .inr (.inr ⟨tag, rfl⟩)

/-- A failure at a call leaves what the calls led to, with the outcome. -/
theorem CallsLead.failed_eq {writes : Bool} {s u : State} (h : CallsLead writes s u) (o : StepOutcome) :
    u.failed o = { s with mem := u.mem, port := u.port, traffic := u.traffic, outcome := some o } :=
  congrArg (State.failed · o) h.fields

/-- Settles O12, from the three ways to end. -/
theorem failuresChangeNothing : Obligations.FailuresChangeNothing := by
  refine ⟨fun i s => ?_, fun i s t ht => ⟨fun o ho hc => ?_, fun d hd => ?_⟩⟩
  · obtain ⟨t, ht, he⟩ := exec_runs i s
    rcases he.outcome_cases with h | ⟨u, o, -, -, rfl⟩ | ⟨tag, rfl⟩
    · exact ⟨t, _, ht, h⟩
    · exact ⟨_, _, ht, rfl⟩
    · exact ⟨_, _, ht, rfl⟩
  · rcases (effect_of_exec ht).outcome_cases with h | ⟨u, o', hu, -, rfl⟩ | ⟨tag, rfl⟩
    · cases h.symm.trans ho
      rcases hc with hc | hc <;> cases hc
    · cases ho
      obtain ⟨n, -, -, hn⟩ := hu.calls
      exact ⟨hu.failed_eq o, fun hm => ⟨n, congrArg (State.failed · o) (hn hm)⟩⟩
    · cases ho
      rcases hc with hc | hc <;> cases hc
  · rcases (effect_of_exec ht).outcome_cases with h | ⟨u, o', -, hc, rfl⟩ | ⟨tag, rfl⟩
    · cases h.symm.trans hd
    · cases hd
      rcases hc with hc | hc <;> cases hc
    · cases hd
      exact ⟨rfl, rfl, rfl⟩

section Writers

variable {i : Instr} {s t : State} (he : Effect s i t)
include he

/-- No instruction writes the time base, `running`, the parameters or the tick counter (R34, R39). -/
theorem Effect.sameSurroundings : sameSurroundings s t := by
  cases he with
  | completes gprs fprs cr xer hu => exact hu.surroundings
  | writesSpr hu => rw [writeSpr_fields hu]; exact ⟨rfl, rfl, rfl, rfl⟩
  | fails hu => exact hu.surroundings
  | writesFpscr | writesMsr | branches | traps | returns | reports => exact ⟨rfl, rfl, rfl, rfl⟩

/-- The writers of MSR (48_system_unit.md R492). -/
theorem Effect.msr_writers (h : t.msr ≠ s.msr) :
    (∃ z, i = .sc z) ∨ (∃ z6 z11 z16 z31, i = .rfi z6 z11 z16 z31) ∨ ∃ rs z11 z16 z31, i = .mtmsr rs z11 z16 z31 := by
  cases he with
  | completes gprs fprs cr xer hu => exact absurd hu.msr_eq h
  | writesSpr hu => exact absurd (congrArg State.msr (writeSpr_fields hu)) h
  | fails hu => exact absurd hu.msr_eq h
  | writesFpscr | branches | reports => exact absurd rfl h
  | traps => exact .inl ⟨_, rfl⟩
  | returns => exact .inr (.inl ⟨_, _, _, _, rfl⟩)
  | writesMsr => exact .inr (.inr ⟨_, _, _, _, rfl⟩)

/-- The writers of SRR0 and SRR1 (R30). -/
theorem Effect.srr_writers (h : t.srr0 ≠ s.srr0 ∨ t.srr1 ≠ s.srr1) : (∃ z, i = .sc z) ∨ ∃ rs n z, i = .mtspr rs n z := by
  have same (h0 : t.srr0 = s.srr0) (h1 : t.srr1 = s.srr1) : False := h.elim (· h0) (· h1)
  cases he with
  | completes gprs fprs cr xer hu => exact (same hu.srr0_eq hu.srr1_eq).elim
  | fails hu => exact (same hu.srr0_eq hu.srr1_eq).elim
  | writesFpscr | writesMsr | branches | returns | reports => exact (same rfl rfl).elim
  | traps => exact .inl ⟨_, rfl⟩
  | writesSpr => exact .inr ⟨_, _, _, rfl⟩

omit he in
/-- An unchanged environment is what no call leaves. -/
theorem onlyCalls_of_eq (writes : Bool) (hm : t.mem = s.mem) (hp : t.port = s.port) (ht : t.traffic = s.traffic) :
    onlyCalls writes s t :=
  ⟨0, hp, ht, fun _ a => congrArg (readByte · a) hm⟩

/-- Only the stores write the image, and of the port every instruction makes calls alone (log 6). -/
theorem Effect.onlyCalls : onlyCalls (isStore i) s t := by
  cases he with
  | completes gprs fprs cr xer hu => exact hu.onlyCalls
  | fails hu =>
    obtain ⟨n, hp, ht, hn⟩ := hu.onlyCalls
    refine ⟨n, hp, ht, fun hi => hn ?_⟩
    exact Bool.eq_false_iff.mpr fun hm => by rw [isStore_of_isMultiStore hm] at hi; cases hi
  | writesSpr hu => rw [writeSpr_fields hu]; exact onlyCalls_of_eq _ rfl rfl rfl
  | writesFpscr | writesMsr | branches | traps | returns | reports => exact onlyCalls_of_eq _ rfl rfl rfl

/-- Only a report writes last_invalid (R38). -/
theorem Effect.lastInvalid_writers (h : t.lastInvalid ≠ s.lastInvalid) :
    ∃ d, t.outcome = some (.invalid d) ∧ t.lastInvalid = some d := by
  cases he with
  | completes gprs fprs cr xer hu => exact absurd hu.lastInvalid_eq h
  | writesSpr hu => exact absurd (congrArg State.lastInvalid (writeSpr_fields hu)) h
  | fails hu => exact absurd hu.lastInvalid_eq h
  | writesFpscr | writesMsr | branches | traps | returns => exact absurd rfl h
  | reports => exact ⟨_, rfl, rfl⟩

/-- FPSCR is kept, or derived anew with R37's rule for FX. -/
theorem Effect.fpscr_cases :
    t.fpscr = s.fpscr ∨ (fpscrConsistent t.fpscr ∧ RaisesFX i s.fpscr t.fpscr) := by
  cases he with
  | completes gprs fprs cr xer hu => exact .inl hu.fpscr_eq
  | writesSpr hu => rw [writeSpr_fields hu]; exact .inl rfl
  | fails hu => exact .inl hu.fpscr_eq
  | writesMsr | branches | traps | returns | reports => exact .inl rfl
  | writesFpscr fprs cr fpscr hd hx => exact .inr ⟨hd, hx⟩

end Writers

/-- Settles O13: the writers of each part, by the effects. -/
theorem systemStateWriters : Obligations.SystemStateWriters := by
  intro i s t ht
  have he := effect_of_exec ht
  exact ⟨he.sameSurroundings, he.msr_writers, he.srr_writers, he.onlyCalls, he.lastInvalid_writers⟩

/-- Settles O14: FPSCR is kept, and then no exception is new, or it was derived anew. -/
theorem fpscrDerived : Obligations.FpscrDerived := by
  intro i s t ht
  rcases (effect_of_exec ht).fpscr_cases with h | ⟨hd, hx⟩
  · refine ⟨fun hne => absurd h hne, fun _ _ hn => absurd hn ?_⟩
    rw [h]
    exact not_newException fun _ _ hk => hk
  · exact ⟨fun _ => (derivedBits_iff _).mpr hd, hx⟩

/-! ## O40: what a move-to writes, the move-from reads back -/

/-- The numbers that `mtspr` does not refuse (44_fixed_point_moves.md R322). -/
theorem writeSpr_accepts (s : State) {n : SprNum} (v : Word) (h1 : n.toNat ≠ 268) (h2 : n.toNat ≠ 269) (h3 : n.toNat ≠ 284)
    (h4 : n.toNat ≠ 285) : ∃ u, s.writeSpr n v = some u := by
  have hc : sprClass n ≠ .tbl ∧ sprClass n ≠ .tbu ∧ sprClass n ≠ .tbWrite := by
    unfold sprClass
    split <;> simp_all
  obtain ⟨hl, hu, hw⟩ := hc
  unfold State.writeSpr
  cases h : sprClass n
  case tbl => exact absurd h hl
  case tbu => exact absurd h hu
  case tbWrite => exact absurd h hw
  all_goals exact ⟨_, rfl⟩

/-- A special-purpose register reads as what was written to it. -/
theorem readSpr_of_writeSpr {s u : State} {n : SprNum} {v : Word} (h : s.writeSpr n v = some u) : u.readSpr n = some v := by
  unfold State.writeSpr at h
  unfold State.readSpr
  cases hc : sprClass n <;> simp only [hc] at h ⊢ <;> cases h
  case cell => rw [sprCell_setSprCell, if_pos rfl]
  all_goals rfl

theorem execMtspr_of_writeSpr {s u : State} {rs : GprNum} {n : SprNum} (z31 : BitVec 1)
    (h : s.writeSpr n (s.gpr rs) = some u) : execMtspr rs n z31 s = complete u := by
  unfold execMtspr
  rw [h]

theorem execMfspr_of_readSpr {s : State} {n : SprNum} {v : Word} (rd : GprNum) (z31 : BitVec 1)
    (h : s.readSpr n = some v) : execMfspr rd n z31 s = complete (s.setGpr rd v) := by
  unfold execMfspr
  rw [h]

/-- The mask of `mtcrf` and `mtfsf` as its first `n` fields make it. -/
def fieldsMaskBelow (m : BitVec 8) (n : Nat) : Word :=
  (List.range n).foldl (fun acc i => if m.getMsbD i then acc ||| ((0xF0000000 : Word) >>> (4 * i)) else acc) 0

theorem fieldsMaskBelow_eight (m : BitVec 8) : fieldsMaskBelow m 8 = fieldsMask m := rfl

theorem getMsbD_fieldsMaskBelow (m : BitVec 8) {n : Nat} (hn : n ≤ 8) (k : Nat) :
    (fieldsMaskBelow m n).getMsbD k = (decide (k / 4 < n) && m.getMsbD (k / 4)) := by
  induction n with
  | zero => simp [fieldsMaskBelow]
  | succ n ih =>
    have hfield : ((0xF0000000 : Word) >>> (4 * n)).getMsbD k = decide (k / 4 = n) := by
      have h := getMsbD_fieldMask (BitVec.ofNat 3 n) k
      rwa [fieldMask, BitVec.toNat_ofNat, Nat.mod_eq_of_lt (by omega)] at h
    have hstep : fieldsMaskBelow m (n + 1) =
        if m.getMsbD n then fieldsMaskBelow m n ||| ((0xF0000000 : Word) >>> (4 * n)) else fieldsMaskBelow m n := by
      simp [fieldsMaskBelow, List.range_succ]
    have hlt : k / 4 < n + 1 ↔ k / 4 < n ∨ k / 4 = n := by omega
    rw [hstep]
    cases hm : m.getMsbD n
    · rw [if_neg Bool.false_ne_true, ih (by omega)]
      by_cases hk : k / 4 = n <;> simp [hlt, hk, hm]
    · rw [if_pos rfl, BitVec.getMsbD_or, hfield, ih (by omega)]
      by_cases hk : k / 4 = n <;> simp [hlt, hk, hm]

/-- A bit of the mask of fields is the bit that selects its field (47_branch_unit.md R466). -/
theorem getMsbD_fieldsMask (m : BitVec 8) (k : Nat) : (fieldsMask m).getMsbD k = m.getMsbD (k / 4) := by
  rw [← fieldsMaskBelow_eight, getMsbD_fieldsMaskBelow m le_rfl]
  by_cases hk : k / 4 < 8
  · simp [hk]
  · rw [BitVec.getMsbD_of_ge m _ (by omega), Bool.and_false]

theorem mtspr_mfspr (rs rd : GprNum) {n : SprNum} (z31 z31' : BitVec 1) (s : State) (h1 : n.toNat ≠ 268)
    (h2 : n.toNat ≠ 269) (h3 : n.toNat ≠ 284) (h4 : n.toNat ≠ 285) :
    Ends (.mtspr rs n z31) s fun t => Ends (.mfspr rd n z31') t fun u => u.gpr rd = s.gpr rs := by
  obtain ⟨u, hu⟩ := writeSpr_accepts s (s.gpr rs) h1 h2 h3 h4
  have hread : u.completed.readSpr n = some (s.gpr rs) := (readSpr_of_writeSpr hu :)
  exact ⟨_, execMtspr_of_writeSpr z31 hu, _, execMfspr_of_readSpr rd z31' hread, gpr_setGpr_same _ rd _⟩

theorem mtmsr_mfmsr (rs rd : GprNum) (z11 z16 z11' z16' : BitVec 5) (z31 z31' : BitVec 1) (s : State) :
    Ends (.mtmsr rs z11 z16 z31) s fun t => Ends (.mfmsr rd z11' z16' z31') t fun u => u.gpr rd = s.gpr rs :=
  ⟨_, rfl, _, rfl, gpr_setGpr_same _ rd _⟩

theorem mtcrf_mfcr (rs rd : GprNum) (m : BitVec 8) (z10 z20 z31 z31' : BitVec 1) (z11 z16 : BitVec 5) (s : State) :
    Ends (.mtcrf rs z10 m z20 z31) s fun t => Ends (.mfcr rd z11 z16 z31') t fun u =>
      ∀ k, k < 32 → m.getMsbD (k / 4) = true → (u.gpr rd).getMsbD k = (s.gpr rs).getMsbD k := by
  refine ⟨_, rfl, _, rfl, fun k hk hm => ?_⟩
  have hcr : (((s.gpr rs &&& fieldsMask m) ||| (s.cr &&& ~~~ (fieldsMask m)))).getMsbD k = (s.gpr rs).getMsbD k := by
    simp [getMsbD_fieldsMask, hm, hk]
  rw [← hcr]
  exact congrArg (BitVec.getMsbD · k) (gpr_setGpr_same _ rd _)

theorem mtfsf_mffs (frs frd : FprNum) (z6 z15 : BitVec 1) (z11 z16 : BitVec 5) (rc rc' : Bool) (s : State) :
    Ends (.mtfsf z6 0xFF z15 frs rc) s fun t => Ends (.mffs frd z11 z16 rc') t fun u =>
      ∀ k, k < 32 → k ≠ 1 → k ≠ 2 → (u.fpr frd).getMsbD (32 + k) = (s.fpr frs).getMsbD (32 + k) := by
  obtain ⟨t, ht, -, -, hw, -⟩ :=
    finishFpscr_ends (replaceFpscr s.fpscr (fieldsMask 0xFF) (lowWord (s.fpr frs))) rc s
  obtain ⟨u, hu, -, ⟨hr, -⟩, -⟩ := finishFpMove_ends frd (t.params.fpHighWord ++ t.fpscr) rc' t
  refine ⟨t, ht, u, hu, fun k hk h1 h2 => ?_⟩
  have hall : (fieldsMask 0xFF).getMsbD k = true := by
    have hones : ∀ j : Fin 8, (0xFF : BitVec 8).getMsbD j = true := by decide
    rw [getMsbD_fieldsMask]
    exact hones ⟨k / 4, by omega⟩
  have hlow : (lowWord (s.fpr frs)).getMsbD k = (s.fpr frs).getMsbD (32 + k) := by
    simp [lowWord, BitVec.getMsbD_setWidth, Nat.add_comm]
  calc (u.fpr frd).getMsbD (32 + k)
      = t.fpscr.getMsbD k := by rw [hr]; exact BitVec.getMsbD_append.trans (by simp)
    _ = (lowWord (s.fpr frs)).getMsbD k := by rw [hw, getMsbD_replaceFpscr _ _ _ _ h1 h2, if_pos hall]
    _ = (s.fpr frs).getMsbD (32 + k) := hlow

/-- Settles O40: the four round trips. -/
theorem roundTrips : Obligations.RoundTrips := by
  intro rs rd frs frd n z31 z31' z11 z16 z11' z16' z rc rc' s
  exact ⟨mtspr_mfspr rs rd z31 z31' s, mtmsr_mfmsr .., fun _ => mtcrf_mfcr .., mtfsf_mffs ..⟩

end Sys2Proof.Machine

/-! PROOFS of the family 20_memory.md: a multiple access that fails part-way (R66, R69). A sequence of port calls is followed to the
call that is not answered; each instruction is such a sequence at ascending addresses, so the bytes of its calls do not overlap. -/

namespace Sys2Proof.Machine

/-! ## One call that the port does not answer (R67, R68) -/

theorem memRead_unanswered {s : State} {a : Word} {w : Width} (h1 : aligned a w = true)
    (h2 : s.atCall.port.answers .read a.toNat w.bytes = false) :
    s.memRead a w = (s.atCall, .error (.memoryFailure .read a w)) := by
  simp [State.memRead, h1, h2]

theorem memWrite_unanswered {s : State} {a : Word} {w : Width} (v : DWord) (h1 : aligned a w = true)
    (h2 : s.atCall.port.answers .write a.toNat w.bytes = false) :
    s.memWrite a w v = (s.atCall, some (.memoryFailure .write a w)) := by
  simp [State.memWrite, h1, h2]

/-! ## The bytes of a port write (R62) -/

/-- The bytes that a port write of a value sends, the lowest address first. -/
def sentBytes (w : Width) (v : DWord) : List Byte :=
  (List.range w.bytes).map fun k => (v >>> (8 * (w.bytes - 1 - k))).setWidth 8

/-- A port write as the statements see it: the address and the bytes sent. -/
def sentCall (w : Width) (c : Word × DWord) : Word × List Byte := (c.1, sentBytes w c.2)

@[simp] theorem length_sentBytes (w : Width) (v : DWord) : (sentBytes w v).length = w.bytes := by
  simp [sentBytes]

@[simp] theorem sentCall_fst (w : Width) (c : Word × DWord) : (sentCall w c).1 = c.1 := rfl

@[simp] theorem length_sentCall_snd (w : Width) (c : Word × DWord) : (sentCall w c).2.length = w.bytes :=
  length_sentBytes w c.2

theorem bytesStored_putBytes (s : State) (a : Word) (w : Width) (v : DWord) :
    bytesStored a.toNat (sentBytes w v) s (s.putBytes a w v) := by
  refine ⟨fun k hk => ?_, fun x hx => ?_⟩
  · rw [length_sentBytes] at hk
    simpa [sentBytes] using readByte_writeBytes_inside s.mem a.toNat w.bytes v hk
  · rw [length_sentBytes] at hx
    exact readByte_writeBytes_outside s.mem a.toNat w.bytes v hx

theorem sentBytes_word (v : Word) : sentBytes .word (asPort v) = wordBytes v := by
  have hbyte (n : Nat) : (v.setWidth 64 >>> n).setWidth 8 = v.extractLsb' n 8 := by
    ext i hi
    simpa using fun h => (BitVec.lt_of_getLsbD h).trans (by decide)
  simp [sentBytes, wordBytes, asPort, Width.bytes, List.range_succ, hbyte, ← hbyte 0]

theorem sentBytes_zeroWord : sentBytes .word 0 = [0, 0, 0, 0] := by decide

/-- A byte that StoreString sends is byte `i % 4` of its register (43_fixed_point_load_store.md R300). -/
theorem sentBytes_stringByte (s : State) (r : GprNum) (i : Nat) :
    sentBytes .byte (s.stringByte r i) = [(wordBytes (s.gpr (r + BitVec.ofNat 5 (i / 4)))).getD (i % 4) 0] := by
  have hq : i % 4 < 4 := Nat.mod_lt _ (by decide)
  unfold State.stringByte
  generalize s.gpr (r + BitVec.ofNat 5 (i / 4)) = v
  generalize i % 4 = q at hq
  have hbyte (n : Nat) : (asPort ((v >>> n) &&& 0xFF)).setWidth 8 = v.extractLsb' n 8 := by
    ext j hj
    have hones : (0xFF#8)[j] = true := BitVec.getElem_allOnes j hj
    simpa [asPort, hones] using fun h => (BitVec.lt_of_getLsbD h).trans (by decide)
  simp only [sentBytes, Width.bytes, List.range_one, List.map_cons, List.map_nil, Nat.sub_self, Nat.mul_zero,
    BitVec.ushiftRight_zero, hbyte]
  interval_cases q <;> rfl

/-! ## Sequences of calls, up to the one that is not answered (R69) -/

/-- Reads end at the first that the port does not answer. -/
theorem readSeq_unanswered {w : Width} {l : List Word} {s : State} {k : Nat} (hk : k < l.length)
    (ha : ∀ a ∈ l, aligned a w = true)
    (hok : ∀ (j : Nat) (hj : j < l.length), j < k → (s.afterCalls (j + 1)).port.answers .read l[j].toNat w.bytes = true)
    (hf : (s.afterCalls (k + 1)).port.answers .read l[k].toNat w.bytes = false) :
    State.readSeq w l s = (s.afterCalls (k + 1), .error (.memoryFailure .read l[k] w)) := by
  induction l generalizing s k with
  | nil => cases hk
  | cons a l ih =>
    have h1 := ha a List.mem_cons_self
    cases k with
    | zero =>
      have h0 : s.memRead a w = (s.atCall, .error (.memoryFailure .read a w)) := memRead_unanswered h1 hf
      rw [State.readSeq, h0]
      rfl
    | succ k =>
      rw [afterCalls_succ] at hf
      have h' := ih (s := s.atCall) (Nat.lt_of_succ_lt_succ hk) (fun b hb => ha b (List.mem_cons_of_mem a hb))
        (fun j hj hjk => by
          have h2 := hok (j + 1) (Nat.succ_lt_succ hj) (Nat.succ_lt_succ hjk)
          rwa [afterCalls_succ] at h2) hf
      have h0 : s.memRead a w = (s.atCall, .ok (readBytes s.atCall.mem a.toNat w.bytes)) :=
        memRead_ok h1 (hok 0 (Nat.zero_lt_succ _) (Nat.zero_lt_succ _))
      simp only [State.readSeq, h0, h', afterCalls_succ s, List.getElem_cons_succ]

/-- Writes end at the first that the port does not answer, met with the earlier ones done. -/
theorem writeSeq_unanswered {w : Width} {l : List (Word × DWord)} {s : State} {k : Nat} (hk : k < l.length)
    (ha : ∀ c ∈ l, aligned c.1 w = true)
    (hok : ∀ (j : Nat) (hj : j < l.length), j < k →
      (s.afterCalls (j + 1)).port.answers .write l[j].1.toNat w.bytes = true)
    (hf : (s.afterCalls (k + 1)).port.answers .write l[k].1.toNat w.bytes = false) :
    ∃ u, StoresTo ((l.map (sentCall w)).take k) s u ∧
      State.writeSeq w l s = (u.atCall, some (.memoryFailure .write l[k].1 w)) := by
  induction l generalizing s k with
  | nil => cases hk
  | cons c l ih =>
    obtain ⟨a, v⟩ := c
    have h1 : aligned a w = true := ha _ List.mem_cons_self
    cases k with
    | zero =>
      have h0 : s.memWrite a w v = (s.atCall, some (.memoryFailure .write a w)) := memWrite_unanswered v h1 hf
      exact ⟨s, rfl, by rw [State.writeSeq, h0]; rfl⟩
    | succ k =>
      have hport (n : Nat) : ((s.atCall.putBytes a w v).afterCalls (n + 1)).port = (s.afterCalls (n + 1 + 1)).port := by
        rw [afterCalls_succ s]
        exact (afterCalls_port_congr (s := s.atCall) (t := s.atCall.putBytes a w v) rfl rfl (n + 1)).1
      obtain ⟨u, hu, hw⟩ := ih (s := s.atCall.putBytes a w v) (Nat.lt_of_succ_lt_succ hk)
        (fun b hb => ha b (List.mem_cons_of_mem _ hb))
        (fun j hj hjk => by rw [hport]; exact hok (j + 1) (Nat.succ_lt_succ hj) (Nat.succ_lt_succ hjk))
        (by rw [hport]; exact hf)
      have h0 : s.memWrite a w v = (s.atCall.putBytes a w v, none) :=
        memWrite_ok v h1 (hok 0 (Nat.zero_lt_succ _) (Nat.zero_lt_succ _))
      refine ⟨u, ⟨_, rfl, bytesStored_putBytes _ a w v, hu⟩, ?_⟩
      rw [State.writeSeq, h0]
      exact hw

theorem loadSeq_of_readFails {w : Width} {as : List Word} {s t : State} {o : StepOutcome}
    (pack : List DWord → List Word) (r : GprNum) (h : State.readSeq w as s = (t, .error o)) :
    loadSeq w as pack r s = .next (t.failed o) := by
  rw [loadSeq, h]; rfl

theorem storeSeq_of_writeFails {w : Width} {l : List (Word × DWord)} {s t : State} {o : StepOutcome}
    (h : State.writeSeq w l s = (t, some o)) : storeSeq w l s = .next (t.failed o) := by
  rw [storeSeq, h]; rfl

/-! ## Ascending addresses (R61, R69) -/

@[simp] theorem length_addressesFrom (ea : Word) (stride n : Nat) : (addressesFrom ea stride n).length = n := by
  simp [addressesFrom]

@[simp] theorem getElem_addressesFrom (ea : Word) (stride n : Nat) {k : Nat} (hk : k < (addressesFrom ea stride n).length) :
    (addressesFrom ea stride n)[k] = ea + BitVec.ofNat 32 (stride * k) := by
  simp [addressesFrom]

theorem aligned_iff_mod (a : Word) (w : Width) : aligned a w = true ↔ a.toNat % w.bytes = 0 := decide_eq_true_iff

theorem aligned_byte (a : Word) : aligned a .byte = true := (aligned_iff_mod a .byte).mpr (Nat.mod_one _)

theorem aligned_add_mul {ea : Word} {w : Width} (h : aligned ea w = true) (k : Nat) :
    aligned (ea + BitVec.ofNat 32 (w.bytes * k)) w = true := by
  rw [aligned_iff_mod] at h ⊢
  rw [BitVec.toNat_add, BitVec.toNat_ofNat]
  cases w <;> simp only [Width.bytes] at h ⊢ <;> omega

theorem aligned_of_mem_addressesFrom {ea a : Word} {w : Width} {n : Nat} (h : aligned ea w = true)
    (ha : a ∈ addressesFrom ea w.bytes n) : aligned a w = true := by
  obtain ⟨k, -, rfl⟩ := List.mem_map.mp ha
  exact aligned_add_mul h k

/-- Accesses that do not go around the address space lie apart. -/
theorem addressesFrom_apart {ea : Word} {w : Width} {n : Nat} (h : aligned ea w = true) (hn : w.bytes * n ≤ 2 ^ 32) :
    (addressesFrom ea w.bytes n).Pairwise fun a b => a.toNat + w.bytes ≤ b.toNat ∨ b.toNat + w.bytes ≤ a.toNat := by
  rw [List.pairwise_iff_getElem]
  intro i j hi hj hij
  rw [length_addressesFrom] at hj
  rw [aligned_iff_mod] at h
  have hea := ea.isLt
  simp only [getElem_addressesFrom, BitVec.toNat_add, BitVec.toNat_ofNat]
  cases w <;> simp only [Width.bytes] at h hn ⊢ <;> omega

/-! ## What stores one after another leave, where nobody comes between -/

/-- The bytes of the calls do not overlap. -/
def CallsApart (l : List (Word × List Byte)) : Prop :=
  l.Pairwise fun c d => c.1.toNat + c.2.length ≤ d.1.toNat ∨ d.1.toNat + d.2.length ≤ c.1.toNat

theorem callsApart_map_sentCall {w : Width} {ws : List (Word × DWord)} {ea : Word} {n : Nat} (h : aligned ea w = true)
    (hn : w.bytes * n ≤ 2 ^ 32) (hws : ws.map Prod.fst = addressesFrom ea w.bytes n) : CallsApart (ws.map (sentCall w)) := by
  have happart := addressesFrom_apart h hn
  rw [← hws, List.pairwise_map] at happart
  rw [CallsApart, List.pairwise_map]
  simpa using happart

/-- Where nobody comes between and no call overlaps another, the bytes of all of them stand at the end. -/
theorem firstStored_of_storesTo {l : List (Word × List Byte)} {k : Nat} {s t : State} (hd : CallsApart l)
    (ht : s.traffic = []) (h : StoresTo (l.take k) s t) : firstStored l k s t := by
  induction l generalizing s k with
  | nil =>
    rw [List.take_nil] at h
    exact ⟨nofun, fun x _ => by rw [h]⟩
  | cons c l ih =>
    cases k with
    | zero => exact ⟨nofun, fun x _ => by rw [h]⟩
    | succ k =>
      obtain ⟨hc, hd⟩ := List.pairwise_cons.mp hd
      obtain ⟨u, hu, ⟨hin, hout⟩, hl⟩ := h
      rw [atCall_of_nil ht] at hu hout
      obtain ⟨ihin, ihout⟩ := ih hd (by rw [hu]; exact ht) hl
      refine ⟨fun m hm hmk j hj => ?_, fun x hx => ?_⟩
      · cases m with
        | zero =>
          have hj' : j < c.2.length := hj
          rw [ihout _ fun m hm _ => ?_]
          · exact hin j hj
          · have := hc _ (List.getElem_mem hm)
            simp only [List.getElem_cons_zero]
            omega
        | succ m => exact ihin m (Nat.lt_of_succ_lt_succ hm) (Nat.lt_of_succ_lt_succ hmk) j hj
      · rw [ihout x fun m hm hmk => hx (m + 1) (Nat.succ_lt_succ hm) (Nat.succ_lt_succ hmk)]
        exact hout x (hx 0 (Nat.zero_lt_succ _) (Nat.zero_lt_succ _))

theorem storesTo_traffic_nil {l : List (Word × List Byte)} {s t : State} (ht : s.traffic = []) (h : StoresTo l s t) :
    t.traffic = [] := by
  induction l generalizing s with
  | nil => rw [h]; exact ht
  | cons c l ih =>
    obtain ⟨u, hu, -, hl⟩ := h
    exact ih (by rw [hu, atCall_of_nil ht]; exact ht) hl

/-! ## The instructions as sequences of calls -/

theorem immediateCount_eq_countOf (nb : BitVec 5) : immediateCount nb = countOf nb := by
  simp [immediateCount, countOf, ← BitVec.toNat_inj]

theorem countOf_le (nb : BitVec 5) : countOf nb ≤ 32 := by
  unfold countOf
  have := nb.isLt
  split <;> omega

theorem byteCount_eq (s : State) : s.byteCount = s.xer.toNat % 128 := by
  rw [State.byteCount, BitVec.toNat_and]
  exact Nat.and_two_pow_sub_one_eq_mod _ 7

theorem execLmw_of_aligned (rd : GprNum) {ra : GprNum} {d : BitVec 16} {s : State} (h : aligned (s.eaD ra d) .word = true) :
    exec (.lmw rd ra d) s = loadSeq .word (addressesFrom (s.eaD ra d) 4 (32 - rd.toNat)) (List.map lowWord) rd s :=
  if_pos h

theorem execStmw_of_aligned (rs : GprNum) {ra : GprNum} {d : BitVec 16} {s : State} (h : aligned (s.eaD ra d) .word = true) :
    exec (.stmw rs ra d) s = storeSeq .word (s.multipleWrites (s.eaD ra d) rs) s :=
  if_pos h

/-- A load of many accesses reads at ascending aligned addresses. -/
theorem exec_of_multiLoadForm {i : Instr} {s : State} {f : MultiLoadForm} (h : multiLoadForm i s = some f) :
    aligned f.ea f.width = true ∧
      ∃ pack, exec i s = loadSeq f.width (addressesFrom f.ea f.width.bytes f.count) pack f.rd s := by
  cases i
  case lmw rd ra d =>
    obtain ⟨ha, rfl⟩ : (s.eaD ra d).toNat % 4 = 0 ∧ _ = f := by simpa [multiLoadForm] using h
    have ha := (aligned_word_iff _).mpr ha
    exact ⟨ha, _, execLmw_of_aligned rd ha⟩
  case lswi rd ra nb z31 =>
    cases h
    exact ⟨aligned_byte _, _, by rw [← immediateCount_eq_countOf]; rfl⟩
  case lswx rd ra rb z31 =>
    cases h
    exact ⟨aligned_byte _, _, by rw [← byteCount_eq]; rfl⟩
  all_goals cases h

/-- The port writes `ws` at ascending aligned addresses that do not go around the address space, sending the bytes of `l`. -/
structure AscendingWrites (w : Width) (ws : List (Word × DWord)) (l : List (Word × List Byte)) : Prop where
  sent : ws.map (sentCall w) = l
  ascending : ∃ ea n, aligned ea w = true ∧ w.bytes * n ≤ 2 ^ 32 ∧ ws.map Prod.fst = addressesFrom ea w.bytes n

theorem AscendingWrites.aligned {w : Width} {ws : List (Word × DWord)} {l : List (Word × List Byte)}
    (h : AscendingWrites w ws l) : ∀ c ∈ ws, aligned c.1 w = true := by
  obtain ⟨ea, n, ha, -, hws⟩ := h.ascending
  intro c hc
  exact aligned_of_mem_addressesFrom ha (hws ▸ List.mem_map_of_mem hc)

theorem AscendingWrites.apart {w : Width} {ws : List (Word × DWord)} {l : List (Word × List Byte)}
    (h : AscendingWrites w ws l) : CallsApart l := by
  obtain ⟨ea, n, ha, hn, hws⟩ := h.ascending
  rw [← h.sent]
  exact callsApart_map_sentCall ha hn hws

theorem multipleWrites_ascending {s : State} {ea : Word} (h : aligned ea .word = true) (r : GprNum) :
    AscendingWrites .word (s.multipleWrites ea r) ((List.range (32 - r.toNat)).map fun k =>
      (ea + BitVec.ofNat 32 (4 * k), wordBytes (s.gpr (r + BitVec.ofNat 5 k)))) where
  sent := by simp [State.multipleWrites, sentCall, sentBytes_word]
  ascending := ⟨ea, 32 - r.toNat, h, by simp only [Width.bytes]; omega,
    by simp [State.multipleWrites, addressesFrom, Width.bytes]⟩

theorem stringWrites_ascending (s : State) (ea : Word) {n : Nat} (hn : n ≤ 2 ^ 32) (r : GprNum) :
    AscendingWrites .byte (s.stringWrites ea n r) ((List.range n).map fun k =>
      (ea + BitVec.ofNat 32 k, [(wordBytes (s.gpr (r + BitVec.ofNat 5 (k / 4)))).getD (k % 4) 0])) where
  sent := by simp [State.stringWrites, sentCall, sentBytes_stringByte]
  ascending := ⟨ea, n, aligned_byte ea, by simpa only [Width.bytes, Nat.one_mul] using hn,
    by simp [State.stringWrites, addressesFrom, Width.bytes]⟩

/-- Clearing the low bits of an address rounds it down to its block (48_system_unit.md R500). -/
theorem toNat_clearLow (a : Word) (m : Nat) :
    (a &&& ~~~ (BitVec.ofNat 32 (2 ^ m - 1))).toNat = a.toNat / 2 ^ m * 2 ^ m := by
  have hle : a.toNat / 2 ^ m * 2 ^ m < 2 ^ 32 := (Nat.div_mul_le_self _ _).trans_lt a.isLt
  have hbits : a &&& ~~~ (BitVec.ofNat 32 (2 ^ m - 1)) = BitVec.ofNat 32 (a.toNat / 2 ^ m * 2 ^ m) := by
    apply BitVec.eq_of_getLsbD_eq
    intro i hi
    simp only [BitVec.getLsbD_and, BitVec.getLsbD_not, BitVec.getLsbD_ofNat, Nat.testBit_mul_two_pow,
      Nat.testBit_div_two_pow, Nat.testBit_two_pow_sub_one, BitVec.testBit_toNat]
    by_cases him : i < m
    · simp [him, Nat.not_le.mpr him]
    · simp [him, hi, Nat.sub_add_cancel (Nat.not_lt.mp him), Nat.not_lt.mp him]
  rw [hbits, BitVec.toNat_ofNat, Nat.mod_eq_of_lt hle]

theorem cacheBlockBytes_eq (s : State) : s.cacheBlockBytes = 2 ^ (s.params.cacheBlockShift.val + 2) := by
  rw [State.cacheBlockBytes, Nat.pow_add, Nat.mul_comm]

theorem toNat_cacheBlockBase (s : State) (ea : Word) :
    (s.cacheBlockBase ea).toNat = ea.toNat / s.cacheBlockBytes * s.cacheBlockBytes := by
  rw [State.cacheBlockBase, cacheBlockBytes_eq]
  exact toNat_clearLow ea _

theorem aligned_cacheBlockBase (s : State) (ea : Word) : aligned (s.cacheBlockBase ea) .word = true := by
  rw [aligned_word_iff, toNat_cacheBlockBase]
  exact Nat.mod_eq_zero_of_dvd (Dvd.dvd.mul_left (Nat.dvd_mul_right 4 _) _)

theorem cacheBlockBytes_le (s : State) : s.cacheBlockBytes ≤ 2 ^ 32 := by
  rw [cacheBlockBytes_eq]
  exact Nat.pow_le_pow_right (by decide) (by have := s.params.cacheBlockShift.isLt; omega)

theorem blockWrites_ascending (s : State) (ea : Word) :
    AscendingWrites .word (s.blockWrites ea) ((List.range (s.cacheBlockBytes / 4)).map fun k =>
      (BitVec.ofNat 32 (ea.toNat / s.cacheBlockBytes * s.cacheBlockBytes + 4 * k), [0, 0, 0, 0])) where
  sent := by
    simp only [State.blockWrites, List.map_map, ← toNat_cacheBlockBase, BitVec.ofNat_add, BitVec.ofNat_toNat,
      BitVec.setWidth_eq, ← sentBytes_zeroWord]
    rfl
  ascending := ⟨s.cacheBlockBase ea, s.cacheBlockBytes / 4, aligned_cacheBlockBase s ea,
    (Nat.mul_div_le _ 4).trans (cacheBlockBytes_le s), by simp [State.blockWrites, addressesFrom, Width.bytes]⟩

/-- A store of many accesses writes at ascending aligned addresses. -/
theorem exec_of_multiStoreForm {i : Instr} {s : State} {w : Width} {l : List (Word × List Byte)}
    (h : multiStoreForm i s = some (w, l)) : ∃ ws, exec i s = storeSeq w ws s ∧ AscendingWrites w ws l := by
  cases i
  case stmw rs ra d =>
    obtain ⟨ha, rfl, rfl⟩ : (s.eaD ra d).toNat % 4 = 0 ∧ _ = w ∧ _ = l := by simpa [multiStoreForm] using h
    have ha := (aligned_word_iff _).mpr ha
    exact ⟨_, execStmw_of_aligned rs ha, multipleWrites_ascending ha rs⟩
  case stswi rs ra nb z31 =>
    cases h
    have hn : countOf nb ≤ 2 ^ 32 := (countOf_le nb).trans (by decide)
    exact ⟨_, by rw [← immediateCount_eq_countOf]; rfl, stringWrites_ascending s _ hn rs⟩
  case stswx rs ra rb z31 =>
    cases h
    have hn : s.xer.toNat % 128 ≤ 2 ^ 32 := by omega
    exact ⟨_, by rw [← byteCount_eq]; rfl, stringWrites_ascending s _ hn rs⟩
  case dcbz z6 ra rb z31 =>
    cases h
    exact ⟨_, rfl, blockWrites_ascending s _⟩
  all_goals cases h

/-! ## O37: a multiple access that fails part-way -/

theorem multiLoad_unanswered {i : Instr} {s : State} {f : MultiLoadForm} {k : Nat} (h : multiLoadForm i s = some f)
    (hk : k < f.count)
    (hok : ∀ j, j < k → (s.afterCalls (j + 1)).port.answers .read (f.address j).toNat f.width.bytes = true)
    (hf : (s.afterCalls (k + 1)).port.answers .read (f.address k).toNat f.width.bytes = false) :
    exec i s = .next ((s.afterCalls (k + 1)).failed (.memoryFailure .read (f.address k) f.width)) := by
  obtain ⟨ha, pack, he⟩ := exec_of_multiLoadForm h
  have hlen : k < (addressesFrom f.ea f.width.bytes f.count).length := by rwa [length_addressesFrom]
  have haddr : (addressesFrom f.ea f.width.bytes f.count)[k] = f.address k := getElem_addressesFrom _ _ _ hlen
  rw [he, loadSeq_of_readFails, ← haddr]
  refine readSeq_unanswered hlen (fun a => aligned_of_mem_addressesFrom ha) (fun j hj hjk => ?_) ?_
  · rw [getElem_addressesFrom]
    exact hok j hjk
  · rwa [haddr]

theorem multiStore_unanswered {i : Instr} {s : State} {w : Width} {l : List (Word × List Byte)} {k : Nat}
    (h : multiStoreForm i s = some (w, l)) (hk : k < l.length)
    (hok : ∀ (j : Nat) (hj : j < l.length), j < k → (s.afterCalls (j + 1)).port.answers .write l[j].1.toNat w.bytes = true)
    (hf : (s.afterCalls (k + 1)).port.answers .write l[k].1.toNat w.bytes = false) :
    CallsApart l ∧ ∃ u, StoresTo (l.take k) s u ∧
      exec i s = .next (u.atCall.failed (.memoryFailure .write l[k].1 w)) := by
  obtain ⟨ws, he, hws⟩ := exec_of_multiStoreForm h
  have hapart := hws.apart
  obtain rfl := hws.sent
  simp only [List.length_map, List.getElem_map, sentCall_fst] at hk hok hf ⊢
  obtain ⟨u, hu, hw⟩ := writeSeq_unanswered hk hws.aligned hok hf
  exact ⟨hapart, u, hu, he.trans (storeSeq_of_writeFails hw)⟩

theorem misaligned_multiple_fails (r ra : GprNum) (d : BitVec 16) (s : State) (h : (s.eaD ra d).toNat % 4 ≠ 0) :
    exec (.lmw r ra d) s = .next (s.failed (.alignment .data (s.eaD ra d) .word)) ∧
      exec (.stmw r ra d) s = .next (s.failed (.alignment .data (s.eaD ra d) .word)) := by
  have ha : ¬ aligned (s.eaD ra d) .word = true := mt (aligned_word_iff _).mp h
  exact ⟨if_neg ha, if_neg ha⟩

/-- Settles O37: the sequences of calls of the two forms, followed to the call that is not answered, and the check before the
first one. -/
theorem multipleAccessFails : Obligations.MultipleAccessFails := by
  refine ⟨fun i s f k h hk hok hf => multiLoad_unanswered h hk hok hf, fun i s w l k hk h hok hf => ?_,
    misaligned_multiple_fails⟩
  obtain ⟨hapart, u, hu, he⟩ := multiStore_unanswered h hk hok hf
  refine ⟨_, he, ⟨u, hu, rfl⟩, fun ht => ?_⟩
  rw [atCall_of_nil (storesTo_traffic_nil ht hu)]
  have hfirst : firstStored l k s u := firstStored_of_storesTo hapart ht hu
  exact hfirst

end Sys2Proof.Machine

/-! PROOFS of the family 30_encoding.md: the decoder and the encoder are inverse to each other (R92 to R101), and the rows of the
opcode table say which words decode, and to what (R102). Two theorems carry the family. `encode_of_decode` reads the tables arm by
arm: the fields an arm takes from a word, put back, are the word. `decode_of_row` reads the rows: a word under the mask of an
instruction's row decodes to an instruction of that row, and to the instruction itself where the word is its encoding. -/

namespace Sys2Proof

/-! ## Fields put back where they were taken -/

/-- The ones of the field of `n` bits whose least significant bit has value 2^lo. -/
abbrev ones (lo n : Nat) : Word := put lo (BitVec.allOnes n)

theorem put_take (lo n : Nat) (w : Word) : put lo (take lo n w) = w &&& ones lo n := by
  apply BitVec.eq_of_getLsbD_eq
  intro k hk
  rw [BitVec.getLsbD_and, getLsbD_put, getLsbD_put, getLsbD_take, BitVec.getLsbD_allOnes]
  by_cases hlo : k < lo
  · simp [hlo]
  · have hplace : lo + (k - lo) = k := by omega
    simp [hlo, hk, hplace, Bool.and_comm]

theorem ofBool_takeBit (lo : Nat) (w : Word) : BitVec.ofBool (takeBit lo w) = take lo 1 w := by
  apply BitVec.eq_of_getLsbD_eq
  intro k hk
  obtain rfl : k = 0 := by omega
  rw [getLsbD_take]
  simp [takeBit]

theorem putBit_takeBit (lo : Nat) (w : Word) : putBit lo (takeBit lo w) = w &&& ones lo 1 := by
  rw [putBit, ofBool_takeBit, put_take]

/-- Fields that together cover the word, put back, are the word. -/
theorem and_eq_self_of_allOnes {w m : Word} (h : m = BitVec.allOnes 32) : w &&& m = w := by
  rw [h, BitVec.and_allOnes]

/-! ## The opcode fields, put back -/

theorem put_of_toNat_take {lo n k : Nat} {w : Word} (h : (take lo n w).toNat = k) :
    put lo (BitVec.ofNat n k) = w &&& ones lo n := by
  rw [← h, BitVec.ofNat_toNat, BitVec.setWidth_eq, put_take]

theorem put_opcd {w : Word} {k : Nat} (h : opcd w = k) : put 26 (BitVec.ofNat 6 k) = w &&& ones 26 6 :=
  put_of_toNat_take h

theorem put_xo10 {w : Word} {k : Nat} (h : xo10 w = k) : put 1 (BitVec.ofNat 10 k) = w &&& ones 1 10 :=
  put_of_toNat_take h

theorem put_xo5 {w : Word} {k : Nat} (h : xo5 w = k) : put 1 (BitVec.ofNat 5 k) = w &&& ones 1 5 :=
  put_of_toNat_take h

/-- OE is the most significant bit of the ten-bit index of table 31 (R99). -/
theorem takeBit_of_xo10 {w : Word} {k : Nat} (h : xo10 w = k) : takeBit 10 w = k.testBit 9 := by
  rw [← h, xo10, BitVec.testBit_toNat, getLsbD_take]
  rfl

theorem put_withOe {w : Word} {k xo9 : Nat} (h : xo10 w = k) (hk : withOe xo9 (k.testBit 9) = BitVec.ofNat 10 k) :
    put 1 (withOe xo9 (takeBit 10 w)) = w &&& ones 1 10 := by
  rw [takeBit_of_xo10 h, hk, put_xo10 h]

/-! ## A word that decodes is the word of its instruction, table by table -/

theorem encode_of_decode19 {w : Word} {i : Instr} (hop : opcd w = 19) (h : decode19 w = .ok i) : encode i = w := by
  unfold decode19 at h
  split at h
  case h_14 => cases h
  all_goals
    next hxo =>
    cases h
    delta encode
    simp only [BitVec.ofNat_eq_ofNat, put_opcd hop, put_xo10 hxo, put_take, putBit_takeBit,
      ← BitVec.and_or_distrib_left]
    exact and_eq_self_of_allOnes (by decide)

theorem encode_of_decode31 {w : Word} {i : Instr} (hop : opcd w = 31) (h : decode31 w = .ok i) : encode i = w := by
  unfold decode31 at h
  split at h
  case h_105 => cases h
  all_goals
    next hxo =>
    cases h
    delta encode
    simp (disch := decide) only [BitVec.ofNat_eq_ofNat, put_opcd hop, put_xo10 hxo, put_withOe hxo,
      swapHalves_swapHalves, put_take, putBit_takeBit, ← BitVec.and_or_distrib_left]
    exact and_eq_self_of_allOnes (by decide)

theorem encode_of_decode59 {w : Word} {i : Instr} (hop : opcd w = 59) (h : decode59 w = .ok i) : encode i = w := by
  unfold decode59 at h
  split at h
  case h_10 => cases h
  all_goals
    next hxo =>
    cases h
    delta encode
    simp only [BitVec.ofNat_eq_ofNat, put_opcd hop, put_xo5 hxo, put_take, putBit_takeBit,
      ← BitVec.and_or_distrib_left]
    exact and_eq_self_of_allOnes (by decide)

theorem encode_of_decode63X {w : Word} {i : Instr} (hop : opcd w = 63) (h : decode63X w = .ok i) : encode i = w := by
  unfold decode63X at h
  split at h
  case h_16 => cases h
  all_goals
    next hxo =>
    cases h
    delta encode
    simp only [BitVec.ofNat_eq_ofNat, put_opcd hop, put_xo10 hxo, put_take, putBit_takeBit,
      ← BitVec.and_or_distrib_left]
    exact and_eq_self_of_allOnes (by decide)

theorem encode_of_decode63 {w : Word} {i : Instr} (hop : opcd w = 63) (h : decode63 w = .ok i) : encode i = w := by
  unfold decode63 at h
  split at h
  case h_10 => exact encode_of_decode63X hop h
  all_goals
    next hxo =>
    cases h
    delta encode
    simp only [BitVec.ofNat_eq_ofNat, put_opcd hop, put_xo5 hxo, put_take, putBit_takeBit,
      ← BitVec.and_or_distrib_left]
    exact and_eq_self_of_allOnes (by decide)

/-- A word that decodes is the word of the instruction: every arm takes all of the word's fields but those the walk has read. -/
theorem encode_of_decode {w : Word} {i : Instr} (h : decode w = .ok i) : encode i = w := by
  unfold decode at h
  split at h
  case h_46 hop => exact encode_of_decode19 hop h
  case h_47 hop => exact encode_of_decode31 hop h
  case h_48 hop => exact encode_of_decode59 hop h
  case h_49 hop => exact encode_of_decode63 hop h
  case h_50 => cases h
  all_goals
    next hop =>
    cases h
    delta encode
    simp only [BitVec.ofNat_eq_ofNat, put_opcd hop, put_take, putBit_takeBit, ← BitVec.and_or_distrib_left]
    exact and_eq_self_of_allOnes (by decide)

/-! ## Opcode fields of a word under a row's mask -/

theorem toNat_take (lo n : Nat) (w : Word) : (take lo n w).toNat = w.toNat / 2 ^ lo % 2 ^ n := by
  rw [take, BitVec.extractLsb'_toNat, Nat.shiftRight_eq_div_pow]

theorem take_and (lo n : Nat) (w m : Word) : take lo n (w &&& m) = take lo n w &&& take lo n m := by
  apply BitVec.eq_of_getLsbD_eq
  intro k hk
  simp only [getLsbD_take, BitVec.getLsbD_and, hk, decide_true, Bool.true_and]

/-- A field that the mask covers is known from the masked word. -/
theorem toNat_take_of_and {w m v : Word} (h : w &&& m = v) {lo n : Nat} (hm : take lo n m = BitVec.allOnes n) :
    (take lo n w).toNat = v.toNat / 2 ^ lo % 2 ^ n := by
  rw [← h, ← toNat_take, take_and, hm, BitVec.and_allOnes]

theorem opcd_of_and {w m v : Word} (h : w &&& m = v) (hm : take 26 6 m = BitVec.allOnes 6) :
    opcd w = v.toNat / 2 ^ 26 % 2 ^ 6 := toNat_take_of_and h hm

theorem xo10_of_and {w m v : Word} (h : w &&& m = v) (hm : take 1 10 m = BitVec.allOnes 10) :
    xo10 w = v.toNat / 2 ^ 1 % 2 ^ 10 := toNat_take_of_and h hm

theorem xo5_of_and {w m v : Word} (h : w &&& m = v) (hm : take 1 5 m = BitVec.allOnes 5) :
    xo5 w = v.toNat / 2 ^ 1 % 2 ^ 5 := toNat_take_of_and h hm

/-- A flag that is known beside the masked word widens the mask: the mask of an XO-form row leaves OE out (R99). -/
theorem and_or_flag {w m v : Word} {lo : Nat} {b : Bool} (h : w &&& m = v) (hb : takeBit lo w = b) :
    w &&& (m ||| ones lo 1) = v ||| putBit lo b := by
  rw [BitVec.and_or_distrib_left, h, ← putBit_takeBit, hb]

/-! ## Fields taken where they were put -/

@[simp] theorem takeBit_or (lo : Nat) (v w : Word) : takeBit lo (v ||| w) = (takeBit lo v || takeBit lo w) := BitVec.getLsbD_or

@[simp] theorem takeBit_putBit_same (lo : Nat) (b : Bool) (h : lo < 32) : takeBit lo (putBit lo b) = b := by
  rw [takeBit, putBit, getLsbD_put]
  simp [h]

@[simp] theorem takeBit_put_apart {n : Nat} (lo lo' : Nat) (x : BitVec n) (h : lo + n ≤ lo' ∨ lo' + 1 ≤ lo) :
    takeBit lo' (put lo x) = false := by
  rw [← Bool.toNat_eq_zero, ← BitVec.toNat_ofBool, ofBool_takeBit, take_put_apart lo lo' 1 x h]
  rfl

@[simp] theorem takeBit_putBit_apart (lo lo' : Nat) (b : Bool) (h : lo ≠ lo') : takeBit lo' (putBit lo b) = false :=
  takeBit_put_apart lo lo' _ (by omega)

@[simp] theorem take_putBit_apart (lo lo' n' : Nat) (b : Bool) (h : lo + 1 ≤ lo' ∨ lo' + n' ≤ lo) :
    take lo' n' (putBit lo b) = 0 :=
  take_put_apart lo lo' n' _ h

theorem getLsbD_withOe {xo9 : Nat} (oe : Bool) (h : xo9 < 2 ^ 9) : (withOe xo9 oe).getLsbD 9 = oe := by
  have hlow : xo9.testBit 9 = false := Nat.testBit_lt_two_pow h
  rw [withOe, BitVec.getLsbD_ofNat]
  cases oe
  case false => exact hlow
  case true =>
    have hhigh : (xo9 + 2 ^ 9).testBit 9 = true := by
      rw [Nat.add_comm, Nat.testBit_two_pow_add_eq, hlow, Bool.not_false]
    exact hhigh

@[simp] theorem takeBit_put_withOe {xo9 : Nat} (oe : Bool) (h : xo9 < 2 ^ 9) :
    takeBit 10 (put 1 (withOe xo9 oe)) = oe :=
  (getLsbD_put 1 _ 10).trans (getLsbD_withOe oe h)

/-! ## The walk through the tables (R97 to R101) -/

theorem decode_table19 {w : Word} (h : opcd w = 19) : decode w = decode19 w := by rw [decode, h]; rfl

theorem decode_table31 {w : Word} (h : opcd w = 31) : decode w = decode31 w := by rw [decode, h]; rfl

theorem decode_table59 {w : Word} (h : opcd w = 59) : decode w = decode59 w := by rw [decode, h]; rfl

theorem decode_table63 {w : Word} (h : opcd w = 63) : decode w = decode63 w := by rw [decode, h]; rfl

/-- A word of table 63 that no A-form row takes goes on to the X-form rows (R101). -/
theorem decode63_of_xo5 {w : Word} {k : Nat} (h : xo5 w = k) (hk : k ∉ [18, 20, 21, 25, 26, 28, 29, 30, 31]) :
    decode63 w = decode63X w := by
  subst h
  unfold decode63
  split
  case h_10 => rfl
  all_goals
    next hxo => exact absurd (by rw [hxo]; decide) hk

/-! ## A word under the mask of an instruction's row -/

/-- A word under the mask of an instruction's row decodes to an instruction of the row, and to the instruction itself where it is
the instruction's word: the row's fixed bits lead the walk to its arm, and the arm takes each field where the encoder put it. -/
theorem decode_of_row {i : Instr} {w : Word} (h : w &&& i.row.mask = i.row.value) :
    ∃ j, decode w = .ok j ∧ j.row = i.row ∧ (encode i = w → j = i) := by
  cases i
  all_goals dsimp only [Instr.row] at h
  -- The rows that the primary opcode selects alone (R97).
  case twi | mulli | subfic | cmpli | cmpi | addic | addicDot | addi | addis | bc | sc | b | rlwimi | rlwinm | rlwnm | ori |
      oris | xori | xoris | andiDot | andisDot | lwz | lwzu | lbz | lbzu | stw | stwu | stb | stbu | lhz | lhzu | lha |
      lhau | sth | sthu | lmw | stmw | lfs | lfsu | lfd | lfdu | stfs | stfsu | stfd | stfdu =>
    refine ⟨?_, ?decodes, ?_⟩
    case decodes =>
      rw [decode, opcd_of_and h (by decide)]
      rfl
    exact ⟨rfl, by rintro rfl; delta encode; simp (disch := decide) [take_or, take_put_same, take_put_apart]⟩
  -- Table 19 (R98).
  case mcrf | bclr | crnor | rfi | crandc | isync | crxor | crnand | crand | creqv | crorc | cror | bcctr =>
    refine ⟨?_, ?decodes, ?_⟩
    case decodes =>
      rw [decode_table19 (opcd_of_and h (by decide)), decode19, xo10_of_and h (by decide)]
      rfl
    exact ⟨rfl, by rintro rfl; delta encode; simp (disch := decide) [take_or, take_put_same, take_put_apart]⟩
  -- Table 31, the rows whose mask covers the ten-bit index (R99).
  case cmp | tw | mulhwu | mfcr | lwarx | lwzx | slw | cntlzw | and | cmpl | dcbst | lwzux | andc | mulhw | mfmsr | dcbf |
      lbzx | lbzux | nor | mtcrf | mtmsr | stwcxDot | stwx | stwux | mtsr | stbx | mtsrin | dcbtst | stbux | dcbt | lhzx |
      eqv | tlbie | lhzux | xor | mfspr | lhax | mftb | lhaux | sthx | orc | sthux | or | mtspr | dcbi | nand | mcrxr |
      lswx | lwbrx | lfsx | srw | tlbsync | lfsux | mfsr | lswi | sync | lfdx | lfdux | mfsrin | stswx | stwbrx | stfsx |
      stfsux | stswi | stfdx | stfdux | lhbrx | sraw | srawi | eieio | sthbrx | extsh | extsb | icbi | stfiwx | dcbz =>
    refine ⟨?_, ?decodes, ?_⟩
    case decodes =>
      rw [decode_table31 (opcd_of_and h (by decide)), decode31, xo10_of_and h (by decide)]
      rfl
    exact ⟨rfl, by rintro rfl; delta encode; simp (disch := decide) [take_or, take_put_same, take_put_apart,
        swapHalves_swapHalves]⟩
  -- Table 31, the XO-form rows, which stand at two indices (R99).
  case subfc | addc | subf | neg | subfe | adde | subfze | addze | subfme | addme | mullw | add | divwu | divw =>
    cases hoe : takeBit 10 w
    all_goals
      refine ⟨?_, ?decodes, ?_⟩
      case decodes =>
        rw [decode_table31 (opcd_of_and h (by decide)), decode31,
          xo10_of_and (and_or_flag h hoe) (by decide)]
        rfl
      exact ⟨rfl, by rintro rfl; delta encode; simp (disch := decide) [take_or, take_put_same, take_put_apart]⟩
  -- Table 59 (R100).
  case fdivs | fsubs | fadds | fres | fmuls | fmsubs | fmadds | fnmsubs | fnmadds =>
    refine ⟨?_, ?decodes, ?_⟩
    case decodes =>
      rw [decode_table59 (opcd_of_and h (by decide)), decode59, xo5_of_and h (by decide)]
      rfl
    exact ⟨rfl, by rintro rfl; delta encode; simp (disch := decide) [take_or, take_put_same, take_put_apart]⟩
  -- Table 63, the A-form rows (R101).
  case fdiv | fsub | fadd | fmul | frsqrte | fmsub | fmadd | fnmsub | fnmadd =>
    refine ⟨?_, ?decodes, ?_⟩
    case decodes =>
      rw [decode_table63 (opcd_of_and h (by decide)), decode63, xo5_of_and h (by decide)]
      rfl
    exact ⟨rfl, by rintro rfl; delta encode; simp (disch := decide) [take_or, take_put_same, take_put_apart]⟩
  -- Table 63, the X-form rows (R101).
  case fcmpu | frsp | fctiw | fctiwz | fcmpo | mtfsb1 | fneg | mcrfs | mtfsb0 | fmr | mtfsfi | fnabs | fabs | mffs | mtfsf =>
    refine ⟨?_, ?decodes, ?_⟩
    case decodes =>
      rw [decode_table63 (opcd_of_and h (by decide)), decode63_of_xo5 (xo5_of_and h (by decide)) (by decide),
        decode63X, xo10_of_and h (by decide)]
      rfl
    exact ⟨rfl, by rintro rfl; delta encode; simp (disch := decide) [take_or, take_put_same, take_put_apart]⟩

/-! ## The instructions and the rows -/

/-- The word of every instruction lies in its row (R102). -/
theorem row_selects_encode (i : Instr) : i.row.selects (encode i) = true := by
  cases i
  exacts [
    Laws.FixedBits.twi .., Laws.FixedBits.mulli .., Laws.FixedBits.subfic .., Laws.FixedBits.cmpli .., Laws.FixedBits.cmpi ..,
    Laws.FixedBits.addic .., Laws.FixedBits.addicDot .., Laws.FixedBits.addi .., Laws.FixedBits.addis .., Laws.FixedBits.bc ..,
    Laws.FixedBits.sc .., Laws.FixedBits.b .., Laws.FixedBits.mcrf .., Laws.FixedBits.bclr .., Laws.FixedBits.crnor ..,
    Laws.FixedBits.rfi .., Laws.FixedBits.crandc .., Laws.FixedBits.isync .., Laws.FixedBits.crxor ..,
    Laws.FixedBits.crnand .., Laws.FixedBits.crand .., Laws.FixedBits.creqv .., Laws.FixedBits.crorc ..,
    Laws.FixedBits.cror .., Laws.FixedBits.bcctr .., Laws.FixedBits.rlwimi .., Laws.FixedBits.rlwinm ..,
    Laws.FixedBits.rlwnm .., Laws.FixedBits.ori .., Laws.FixedBits.oris .., Laws.FixedBits.xori .., Laws.FixedBits.xoris ..,
    Laws.FixedBits.andiDot .., Laws.FixedBits.andisDot .., Laws.FixedBits.cmp .., Laws.FixedBits.tw ..,
    Laws.FixedBits.subfc .., Laws.FixedBits.addc .., Laws.FixedBits.mulhwu .., Laws.FixedBits.mfcr .., Laws.FixedBits.lwarx ..,
    Laws.FixedBits.lwzx .., Laws.FixedBits.slw .., Laws.FixedBits.cntlzw .., Laws.FixedBits.and .., Laws.FixedBits.cmpl ..,
    Laws.FixedBits.subf .., Laws.FixedBits.dcbst .., Laws.FixedBits.lwzux .., Laws.FixedBits.andc .., Laws.FixedBits.mulhw ..,
    Laws.FixedBits.mfmsr .., Laws.FixedBits.dcbf .., Laws.FixedBits.lbzx .., Laws.FixedBits.neg .., Laws.FixedBits.lbzux ..,
    Laws.FixedBits.nor .., Laws.FixedBits.subfe .., Laws.FixedBits.adde .., Laws.FixedBits.mtcrf .., Laws.FixedBits.mtmsr ..,
    Laws.FixedBits.stwcxDot .., Laws.FixedBits.stwx .., Laws.FixedBits.stwux .., Laws.FixedBits.subfze ..,
    Laws.FixedBits.addze .., Laws.FixedBits.mtsr .., Laws.FixedBits.stbx .., Laws.FixedBits.subfme .., Laws.FixedBits.addme ..,
    Laws.FixedBits.mullw .., Laws.FixedBits.mtsrin .., Laws.FixedBits.dcbtst .., Laws.FixedBits.stbux ..,
    Laws.FixedBits.add .., Laws.FixedBits.dcbt .., Laws.FixedBits.lhzx .., Laws.FixedBits.eqv .., Laws.FixedBits.tlbie ..,
    Laws.FixedBits.lhzux .., Laws.FixedBits.xor .., Laws.FixedBits.mfspr .., Laws.FixedBits.lhax .., Laws.FixedBits.mftb ..,
    Laws.FixedBits.lhaux .., Laws.FixedBits.sthx .., Laws.FixedBits.orc .., Laws.FixedBits.sthux .., Laws.FixedBits.or ..,
    Laws.FixedBits.divwu .., Laws.FixedBits.mtspr .., Laws.FixedBits.dcbi .., Laws.FixedBits.nand .., Laws.FixedBits.divw ..,
    Laws.FixedBits.mcrxr .., Laws.FixedBits.lswx .., Laws.FixedBits.lwbrx .., Laws.FixedBits.lfsx .., Laws.FixedBits.srw ..,
    Laws.FixedBits.tlbsync .., Laws.FixedBits.lfsux .., Laws.FixedBits.mfsr .., Laws.FixedBits.lswi .., Laws.FixedBits.sync ..,
    Laws.FixedBits.lfdx .., Laws.FixedBits.lfdux .., Laws.FixedBits.mfsrin .., Laws.FixedBits.stswx ..,
    Laws.FixedBits.stwbrx .., Laws.FixedBits.stfsx .., Laws.FixedBits.stfsux .., Laws.FixedBits.stswi ..,
    Laws.FixedBits.stfdx .., Laws.FixedBits.stfdux .., Laws.FixedBits.lhbrx .., Laws.FixedBits.sraw ..,
    Laws.FixedBits.srawi .., Laws.FixedBits.eieio .., Laws.FixedBits.sthbrx .., Laws.FixedBits.extsh ..,
    Laws.FixedBits.extsb .., Laws.FixedBits.icbi .., Laws.FixedBits.stfiwx .., Laws.FixedBits.dcbz .., Laws.FixedBits.lwz ..,
    Laws.FixedBits.lwzu .., Laws.FixedBits.lbz .., Laws.FixedBits.lbzu .., Laws.FixedBits.stw .., Laws.FixedBits.stwu ..,
    Laws.FixedBits.stb .., Laws.FixedBits.stbu .., Laws.FixedBits.lhz .., Laws.FixedBits.lhzu .., Laws.FixedBits.lha ..,
    Laws.FixedBits.lhau .., Laws.FixedBits.sth .., Laws.FixedBits.sthu .., Laws.FixedBits.lmw .., Laws.FixedBits.stmw ..,
    Laws.FixedBits.lfs .., Laws.FixedBits.lfsu .., Laws.FixedBits.lfd .., Laws.FixedBits.lfdu .., Laws.FixedBits.stfs ..,
    Laws.FixedBits.stfsu .., Laws.FixedBits.stfd .., Laws.FixedBits.stfdu .., Laws.FixedBits.fdivs .., Laws.FixedBits.fsubs ..,
    Laws.FixedBits.fadds .., Laws.FixedBits.fres .., Laws.FixedBits.fmuls .., Laws.FixedBits.fmsubs ..,
    Laws.FixedBits.fmadds .., Laws.FixedBits.fnmsubs .., Laws.FixedBits.fnmadds .., Laws.FixedBits.fdiv ..,
    Laws.FixedBits.fsub .., Laws.FixedBits.fadd .., Laws.FixedBits.fmul .., Laws.FixedBits.frsqrte .., Laws.FixedBits.fmsub ..,
    Laws.FixedBits.fmadd .., Laws.FixedBits.fnmsub .., Laws.FixedBits.fnmadd .., Laws.FixedBits.fcmpu ..,
    Laws.FixedBits.frsp .., Laws.FixedBits.fctiw .., Laws.FixedBits.fctiwz .., Laws.FixedBits.fcmpo ..,
    Laws.FixedBits.mtfsb1 .., Laws.FixedBits.fneg .., Laws.FixedBits.mcrfs .., Laws.FixedBits.mtfsb0 .., Laws.FixedBits.fmr ..,
    Laws.FixedBits.mtfsfi .., Laws.FixedBits.fnabs .., Laws.FixedBits.fabs .., Laws.FixedBits.mffs .., Laws.FixedBits.mtfsf ..]

theorem OpcodeRow.selects_iff (r : OpcodeRow) (w : Word) : r.selects w = true ↔ w &&& r.mask = r.value := beq_iff_eq

theorem decode_encode (i : Instr) : decode (encode i) = .ok i := by
  obtain ⟨j, hdecode, -, hsame⟩ := decode_of_row ((OpcodeRow.selects_iff ..).mp (row_selects_encode i))
  rw [hdecode, hsame rfl]

theorem decode_eq_ok_iff {w : Word} {i : Instr} : decode w = .ok i ↔ encode i = w :=
  ⟨encode_of_decode, fun h => h ▸ decode_encode i⟩

/-- The rows stand in the order of the constructors. -/
theorem opcodeRows_ctorIdx (i : Instr) : opcodeRows[i.ctorIdx]? = some i.row := by
  cases i <;> rfl

theorem row_mem_opcodeRows (i : Instr) : i.row ∈ opcodeRows := List.mem_of_getElem? (opcodeRows_ctorIdx i)

/-- The fixed bits of a row, all others 0, are a word of the row. -/
theorem decode_value_row : ∀ r ∈ opcodeRows, (decode r.value).toOption.map Instr.row = some r := by
  simp only [opcodeRows, List.forall_mem_append]
  and_intros
  all_goals decide

theorem exists_row_eq {r : OpcodeRow} (hr : r ∈ opcodeRows) : ∃ i : Instr, i.row = r := by
  obtain ⟨i, -, hi⟩ := Option.map_eq_some_iff.mp (decode_value_row r hr)
  exact ⟨i, hi⟩

theorem decode_of_selects {r : OpcodeRow} {w : Word} (hr : r ∈ opcodeRows) (h : r.selects w = true) :
    ∃ i, decode w = .ok i ∧ i.row = r := by
  obtain ⟨i, rfl⟩ := exists_row_eq hr
  obtain ⟨j, hdecode, hrow, -⟩ := decode_of_row ((OpcodeRow.selects_iff ..).mp h)
  exact ⟨j, hdecode, hrow⟩

/-! ## The obligations -/

/-- Settles O2: the two directions of `decode_eq_ok_iff`. -/
theorem decodeEncode : Obligations.DecodeEncode := ⟨decode_encode, fun _ _ => encode_of_decode⟩

/-- Settles O3: a word that decodes is the word of its instruction, which lies in the instruction's row; a row that selects a word
is the row of what the word decodes to, so there is one at most. -/
theorem opcodeTable : Obligations.OpcodeTable := by
  refine ⟨fun w i h => ⟨row_mem_opcodeRows i, ?_⟩, fun w r hr => decode_of_selects hr, fun w r q hr hq hrw hqw => ?_⟩
  · rw [← encode_of_decode h]
    exact row_selects_encode i
  · obtain ⟨i, hi, rfl⟩ := decode_of_selects hr hrw
    obtain ⟨j, hj, rfl⟩ := decode_of_selects hq hqw
    rw [Except.ok.inj (hi.symm.trans hj)]

/-- Settles O1: each word is the encoding of the instruction it stands for, and the two words of no row fall out of their table. -/
theorem decodeWords : Obligations.DecodeWords := by
  unfold Obligations.DecodeWords
  simp only [decode_eq_ok_iff]
  and_intros
  all_goals rfl

end Sys2Proof

/-! PROOFS of the family 40_dispatcher.md: one step of the Dispatcher (R131 to R137) and the turn of the loop around it (R138, R139).
The branches of a step and of a turn are stated once each, by what the fetch, the decoder and the port answer; the obligations put
them together. -/

namespace Sys2Proof

/-! ## A word that decodes to nothing falls out of the table its primary opcode selects (R102, R137) -/

theorem toNat_shiftRight_eq_opcd (w : Word) : (w >>> 26).toNat = opcd w := by
  have hlt : w.toNat / 2 ^ 26 < 2 ^ 6 := Nat.div_lt_of_lt_mul w.isLt
  rw [opcd, toNat_take, BitVec.toNat_ushiftRight, Nat.shiftRight_eq_div_pow, Nat.mod_eq_of_lt hlt]

section

variable {w : Word} {e : DecodeError}

theorem decode19_error (h : decode19 w = .error e) : e = .unknown19 := by
  unfold decode19 at h
  split at h
  all_goals cases h
  rfl

theorem decode31_error (h : decode31 w = .error e) : e = .unknown31 := by
  unfold decode31 at h
  split at h
  all_goals cases h
  rfl

theorem decode59_error (h : decode59 w = .error e) : e = .unknown59 := by
  unfold decode59 at h
  split at h
  all_goals cases h
  rfl

theorem decode63X_error (h : decode63X w = .error e) : e = .unknown63 := by
  unfold decode63X at h
  split at h
  all_goals cases h
  rfl

theorem decode63_error (h : decode63 w = .error e) : e = .unknown63 := by
  unfold decode63 at h
  split at h
  case h_10 => exact decode63X_error h
  all_goals cases h

/-- The primary opcode says where a word that decodes to nothing fell out of the walk. -/
theorem decode_error_cases (h : decode w = .error e) :
    (opcd w = 19 ∧ e = .unknown19) ∨ (opcd w = 31 ∧ e = .unknown31) ∨ (opcd w = 59 ∧ e = .unknown59) ∨
      (opcd w = 63 ∧ e = .unknown63) ∨ (opcd w ∉ [19, 31, 59, 63] ∧ e = .unknown) := by
  by_cases h19 : opcd w = 19
  · exact .inl ⟨h19, decode19_error (decode_table19 h19 ▸ h)⟩
  by_cases h31 : opcd w = 31
  · exact .inr (.inl ⟨h31, decode31_error (decode_table31 h31 ▸ h)⟩)
  by_cases h59 : opcd w = 59
  · exact .inr (.inr (.inl ⟨h59, decode59_error (decode_table59 h59 ▸ h)⟩))
  by_cases h63 : opcd w = 63
  · exact .inr (.inr (.inr (.inl ⟨h63, decode63_error (decode_table63 h63 ▸ h)⟩)))
  refine .inr (.inr (.inr (.inr ⟨by simp [h19, h31, h59, h63], ?_⟩)))
  unfold decode at h
  split at h
  case h_46 hop => exact absurd hop h19
  case h_47 hop => exact absurd hop h31
  case h_48 hop => exact absurd hop h59
  case h_49 hop => exact absurd hop h63
  all_goals cases h
  rfl

end

end Sys2Proof

namespace Sys2Proof.Machine

section

variable {s t : State}

/-! ## The fetch, by what the port answers (R132, R133) -/

theorem fetch_misaligned (h : s.pc.toNat % 4 ≠ 0) : fetch s = (s, .error (.alignment .fetch s.pc .word)) := by
  rcases fetch_cases s with ⟨-, hf⟩ | ⟨ha, -⟩ | ⟨ha, -⟩
  · exact hf
  · exact absurd ha h
  · exact absurd ha h

theorem fetch_unanswered (ha : s.pc.toNat % 4 = 0) (hp : s.atCall.port.answers .read s.pc.toNat 4 = false) :
    fetch s = (s.atCall, .error (.memoryFailure .read s.pc .word)) := by
  rcases fetch_cases s with ⟨hn, -⟩ | ⟨-, -, hf⟩ | ⟨-, hp', -⟩
  · exact absurd ha hn
  · exact hf
  · exact absurd (hp.symm.trans hp') Bool.false_ne_true

theorem fetch_answered (ha : s.pc.toNat % 4 = 0) (hp : s.atCall.port.answers .read s.pc.toNat 4 = true) :
    fetch s = (s.atCall, .ok (readByte s.atCall.mem s.pc.toNat ++ readByte s.atCall.mem (s.pc.toNat + 1) ++
      readByte s.atCall.mem (s.pc.toNat + 2) ++ readByte s.atCall.mem (s.pc.toNat + 3))) := by
  rcases fetch_cases s with ⟨hn, -⟩ | ⟨-, hp', -⟩ | ⟨-, -, hf⟩
  · exact absurd ha hn
  · exact absurd (hp'.symm.trans hp) Bool.false_ne_true
  · exact hf

/-! ## One step of the Dispatcher, by what was fetched (R131) -/

theorem dispatchStep_of_fetch_error {o : StepOutcome} (hf : fetch s = (t, .error o)) :
    dispatchStep s = .next (t.failed o) := by
  rw [dispatchStep, hf]
  rfl

theorem dispatchStep_of_decode_error {w : Word} {e : DecodeError} (hf : fetch s = (t, .ok w)) (hd : decode w = .error e) :
    dispatchStep s = .next (t.reported (unknownTag e) w) := by
  simp only [dispatchStep, hf, hd, reportInvalid_eq]

theorem dispatchStep_of_decode_ok {w : Word} {i : Instr} (hf : fetch s = (t, .ok w)) (hd : decode w = .ok i) :
    dispatchStep s = exec i t := by
  simp only [dispatchStep, hf, hd]

/-- Every instruction ends in a next state with an outcome, and leaves the Driver's part of the state alone. -/
theorem exec_ends (i : Instr) (s : State) : ∃ t o, exec i s = .next t ∧ t.outcome = some o ∧ sameSurroundings s t := by
  obtain ⟨t, o, ht, ho⟩ := failuresChangeNothing.1 i s
  exact ⟨t, o, ht, ho, (effect_of_exec ht).sameSurroundings⟩

/-- So does every step of the Dispatcher, whatever the fetch gives. -/
theorem dispatchStep_ends (s : State) :
    ∃ t o, dispatchStep s = .next t ∧ t.outcome = some o ∧ sameSurroundings s t := by
  obtain ⟨u, hu, hd⟩ := dispatchStep_cases s
  have hcall : sameSurroundings s u := by
    rcases hu with rfl | rfl
    · exact ⟨rfl, rfl, rfl, rfl⟩
    · exact ⟨atCall_tb s, atCall_running s, atCall_params s, atCall_tickCount s⟩
  rcases hd with ⟨o, -, hd⟩ | ⟨w, e, -, -, hd⟩ | ⟨w, i, -, -, hd⟩
  · exact ⟨_, _, hd, rfl, hcall⟩
  · exact ⟨_, _, hd, rfl, hcall⟩
  · obtain ⟨t, o, ht, ho, htb, hrun, hparams, hcount⟩ := exec_ends i u
    obtain ⟨htb', hrun', hparams', hcount'⟩ := hcall
    exact ⟨t, o, hd.trans ht, ho, htb.trans htb', hrun.trans hrun', hparams.trans hparams', hcount.trans hcount'⟩

/-! ## One turn of the loop, by its checks (R138) -/

theorem step_of_stopped (h : s.running = false) : step s = .fault .loopStopped := if_pos h

theorem step_of_unhooked (h : s.running = true) (hp : s.atCall.port.hooked = false) :
    step s = .next { s.atCall with running := false } := by
  rw [step, driveOnce, if_neg (by simp [h]), if_pos hp]

theorem step_of_hooked (h : s.running = true) (hp : s.atCall.port.hooked = true) :
    step s = settleResult (dispatchStep s.atCall.tick) := by
  rw [step, driveOnce, if_neg (by simp [h]), if_neg (by simp [hp])]

/-- What the Driver makes of a state that has an outcome. -/
theorem settle_of_outcome {o : StepOutcome} (h : s.outcome = some o) :
    s.settle = { s with running := s.running && !stopsLoop s.params.haltOnInvalid o } := by
  have hrun := settle_running s
  rw [h] at hrun
  rw [settle_fields s, hrun]

/-- A turn that takes a step: what the Dispatcher leaves, stopped where the outcome stops the loop. -/
theorem step_of_dispatchStep (h : s.running = true) (hp : s.atCall.port.hooked = true) {o : StepOutcome}
    (hd : dispatchStep s.atCall.tick = .next t) (ho : t.outcome = some o) (hparams : t.params = s.params) :
    step s = .next { t with running := t.running && !stopsLoop s.params.haltOnInvalid o } := by
  rw [step_of_hooked h hp, hd, settleResult_next, settle_of_outcome ho, ← hparams]

/-- R139, over the codes of R540. -/
theorem stopsLoop_eq_false_iff (halt : Bool) (o : StepOutcome) :
    stopsLoop halt o = false ↔ o.code = 0 ∨ (o.code = 2 ∧ halt = false) := by
  cases o with
  | ok | invalid | memoryFailure | alignment => simp [stopsLoop, StepOutcome.code]

/-- The tick and what others do before a call touch different parts of the state. -/
theorem atCall_tick (s : State) : s.tick.atCall = s.atCall.tick :=
  (atCall_congr (s := s) (t := s.tick) rfl rfl rfl).trans (congrArg State.tick (atCall_fields s).symm)

end

/-! ## The obligations -/

/-- The name of the tag is the one R137 gives for the primary opcode. -/
theorem unknownTag_name {w : Word} {e : DecodeError} (h : decode w = .error e) :
    (unknownTag e).name = (match (w >>> 26).toNat with
      | 19 => "unknown_19"
      | 31 => "unknown_31"
      | 59 => "unknown_59"
      | 63 => "unknown_63"
      | _ => "unknown") := by
  rw [toNat_shiftRight_eq_opcd]
  rcases decode_error_cases h with ⟨hop, rfl⟩ | ⟨hop, rfl⟩ | ⟨hop, rfl⟩ | ⟨hop, rfl⟩ | ⟨hop, rfl⟩
  case inr.inr.inr.inr =>
    split
    case h_5 => rfl
    all_goals
      next hw => exact absurd (by simp [hw]) hop
  all_goals
    rw [hop]
    rfl

/-- Settles O5: the fetch gives the word, and the walk of the decoder ends where the primary opcode says. -/
theorem undecodableWord : Obligations.UndecodableWord := by
  intro s w e u ha hp hw hd
  refine ⟨unknownTag e, ?_, unknownTag_name hd⟩
  have hf : fetch s = (u, .ok w) := hw ▸ fetch_answered ha hp
  rw [dispatchStep_of_decode_error hf hd, State.reported, atCall_pc, atCall_events]

/-- Settles O7: a step leaves `running` and P5 as the turn found them, so the outcome alone decides. -/
theorem stopRule : Obligations.StopRule := by
  intro s t hrun hhook ht
  obtain ⟨u, o, hd, ho, -, hrun', hparams, -⟩ := dispatchStep_ends s.atCall.tick
  have hu : u.running = true := hrun'.trans ((atCall_running s).trans hrun)
  have hp5 : u.params = s.params := hparams.trans (atCall_params s)
  cases (step_of_dispatchStep hrun hhook hd ho hp5).symm.trans ht
  refine ⟨o, ho, ?_⟩
  simp only [hu, Bool.true_and, Bool.not_eq_true', stopsLoop_eq_false_iff]

/-- Settles O4: the tick commutes with what others do before the fetch, and the instruction that was decoded ends with an outcome. -/
theorem stepRunsDecoded : Obligations.StepRunsDecoded := by
  intro s i c u hrun hhook ha hp hd
  have hpc : c.tick.pc = s.pc := atCall_pc s
  have hcall : c.tick.atCall = u.tick := atCall_tick c
  have hstart : u.tick = { u with tb := s.tb + Config.tbTick s.tickCount, tickCount := s.tickCount + 1 } := by
    simp only [State.tick, u, c, atCall_tb, atCall_tickCount]
  rw [← hstart]
  obtain ⟨t, o, ht, ho, -, -, hparams, -⟩ := exec_ends i u.tick
  have hp5 : t.params = s.params := hparams.trans ((atCall_params c).trans (atCall_params s))
  have hf := fetch_answered (s := c.tick) (by rwa [hpc]) (by rw [hpc, hcall]; exact hp)
  rw [hpc, hcall] at hf
  have hstep := step_of_dispatchStep hrun hhook ((dispatchStep_of_decode_ok hf hd).trans ht) ho hp5
  refine ⟨t, ht, hstep.trans ?_⟩
  rw [ho]

/-- Settles O6: each check that fails ends the turn, or the step, before what follows it. -/
theorem orderOfChecks : Obligations.OrderOfChecks := fun _ =>
  ⟨step_of_stopped, step_of_unhooked, fun h => dispatchStep_of_fetch_error (fetch_misaligned h),
    fun ha hp => dispatchStep_of_fetch_error (fetch_unanswered ha hp)⟩

end Sys2Proof.Machine

/-! PROOFS of the family 41_fixed_point_arithmetic.md: the fixed-point arithmetic (R160 to R185) against exact integers. A word is
read by `toInt` and `toNat`; the first part says what the model's words are as integers, the second how the shared endings end in
terms of the exact result; each obligation is then, for each instruction, its ending with the exact result it stands for. -/

namespace Sys2Proof.Machine

/-! ## Words as exact integers (00_scope.md R8) -/

section

variable (x y : Word)

theorem toInt_not_eq : (~~~ x).toInt = -x.toInt - 1 := by
  rw [BitVec.toInt_eq_toNat_cond, BitVec.toInt_eq_toNat_cond, BitVec.toNat_not]
  split_ifs
  all_goals omega

theorem ofInt_toInt_add : BitVec.ofInt 32 (x.toInt + y.toInt) = x + y := by
  rw [BitVec.ofInt_add, BitVec.ofInt_toInt, BitVec.ofInt_toInt]

theorem ofInt_toInt_sub : BitVec.ofInt 32 (x.toInt - y.toInt) = x - y := by
  rw [Int.sub_eq_add_neg, BitVec.ofInt_add, BitVec.ofInt_neg, BitVec.ofInt_toInt, BitVec.ofInt_toInt, BitVec.sub_eq_add_neg]

theorem ofInt_toInt_mul : BitVec.ofInt 32 (x.toInt * y.toInt) = x * y := by
  rw [BitVec.ofInt_mul, BitVec.ofInt_toInt, BitVec.ofInt_toInt]

theorem toInt_mul_toInt_bounds : -2 ^ 62 ≤ x.toInt * y.toInt ∧ x.toInt * y.toInt ≤ 2 ^ 62 :=
  ⟨BitVec.le_toInt_mul_toInt, BitVec.toInt_mul_toInt_le⟩

/-- The low word of the product is what the exact signed product leaves modulo 2^32. -/
theorem toNat_mul_eq_emod : ((x * y).toNat : Int) = x.toInt * y.toInt % 2 ^ 32 := by
  rw [← ofInt_toInt_mul, BitVec.toNat_ofInt]
  omega

end

theorem toInt_sext16 (i : BitVec 16) : (sext16 i).toInt = i.toInt := BitVec.toInt_signExtend_of_le (by decide)

theorem shifted16_eq_ofInt (i : BitVec 16) : shifted16 i = BitVec.ofInt 32 (i.toInt * 65536) := by
  apply BitVec.eq_of_toNat_eq
  rw [shifted16, BitVec.toNat_ofInt, BitVec.toInt_eq_toNat_cond, BitVec.toNat_shiftLeft, BitVec.toNat_setWidth,
    Nat.shiftLeft_eq]
  have hlt := i.isLt
  split_ifs
  all_goals omega

theorem toInt_raOrZero (s : State) (ra : GprNum) : (s.raOrZero ra).toInt = baseInt ra s := by
  rw [State.raOrZero, baseInt]
  split
  · rfl
  · rfl

/-! ## Carry and overflow (R162, R163) -/

@[simp] theorem bitInt_false : bitInt false = 0 := rfl

@[simp] theorem bitInt_true : bitInt true = 1 := rfl

@[simp] theorem bitNat_true : bitNat true = 1 := rfl

theorem overflows_eq_notFits (n : Int) : overflows n = notFits n := (Bool.decide_or _ _).symm

theorem carrySum_eq_ofInt (x y : Word) (cin : Bool) :
    carrySum x y cin = BitVec.ofInt 32 (x.toInt + y.toInt + bitInt cin) := by
  rw [BitVec.ofInt_add, ofInt_toInt_add]
  cases cin
  · rfl
  · rfl

theorem caInt_eq (s : State) : caInt s = bitInt s.ca := rfl

theorem caNat_eq (s : State) : caNat s = bitNat s.ca := rfl

theorem toInt_zero_word : (0 : Word).toInt = 0 := rfl

theorem toNat_zero_word : (0 : Word).toNat = 0 := rfl

theorem toInt_ones : (0xFFFFFFFF : Word).toInt = -1 := rfl

theorem bitNat_le_one (b : Bool) : bitNat b ≤ 1 := by
  cases b
  · exact Nat.zero_le 1
  · exact Nat.le_refl 1

/-- A sum with all ones carries, unless the other addend and the carry-in are both 0 (R173, R178). -/
theorem carry_ones_iff (x : Word) (cin : Bool) :
    2 ^ 32 ≤ x.toNat + (0xFFFFFFFF : Word).toNat + bitNat cin ↔ x ≠ 0 ∨ bitNat cin = 1 := by
  have hones : (0xFFFFFFFF : Word).toNat = 2 ^ 32 - 1 := rfl
  have hcin := bitNat_le_one cin
  rw [hones, ne_eq, ← BitVec.toNat_inj, toNat_zero_word]
  omega

/-- A sum with a complement carries exactly where the difference does not borrow (R176 to R179). -/
theorem carry_not_iff (x y : Word) (cin : Bool) :
    2 ^ 32 ≤ (~~~ x).toNat + y.toNat + bitNat cin ↔ x.toNat + 1 ≤ y.toNat + bitNat cin := by
  rw [BitVec.toNat_not]
  omega

/-- Nothing is subtracted from 0 without a borrow but 0 (R179). -/
theorem carry_not_zero_iff (x : Word) (cin : Bool) :
    2 ^ 32 ≤ (~~~ x).toNat + (0 : Word).toNat + bitNat cin ↔ x = 0 ∧ bitNat cin = 1 := by
  have hcin := bitNat_le_one cin
  rw [carry_not_iff, ← BitVec.toNat_inj, toNat_zero_word]
  omega

/-- Only one word has no negation in 32 signed bits (R180). -/
theorem notFits_neg (a : Word) : notFits (-a.toInt) = decide (a = 0x80000000) := by
  rw [notFits, decide_eq_decide, ← BitVec.toInt_inj]
  have hlo := BitVec.le_toInt a
  have hhi := BitVec.toInt_lt (x := a)
  have hmin : (0x80000000 : Word).toInt = -2 ^ 31 := rfl
  omega

/-! ## High words and quotients (R182 to R185) -/

/-- The exact signed product: its high word is the quotient by 2^32, which fits in 32 bits, its low word the remainder. -/
theorem signed_high_low (a b : Word) :
    (BitVec.ofInt 32 (a.toInt * b.toInt / 2 ^ 32)).toInt * 2 ^ 32 + ((a * b).toNat : Int) = a.toInt * b.toInt := by
  have ⟨hlo, hhi⟩ := toInt_mul_toInt_bounds a b
  rw [toNat_mul_eq_emod, BitVec.toInt_ofInt_eq_self (by decide) (by omega) (by omega)]
  exact Int.ediv_mul_add_emod ..

theorem unsigned_high_low (a b : Word) :
    (BitVec.ofNat 32 (a.toNat * b.toNat / 2 ^ 32)).toNat * 2 ^ 32 + (a * b).toNat = a.toNat * b.toNat := by
  have hlt : a.toNat * b.toNat < 2 ^ 32 * 2 ^ 32 := Nat.mul_lt_mul'' a.isLt b.isLt
  rw [BitVec.toNat_mul, BitVec.toNat_ofNat, Nat.mod_eq_of_lt (Nat.div_lt_of_lt_mul hlt)]
  exact Nat.div_add_mod' ..

theorem divideFails_eq_decide (a b : Word) :
    divideFails a b = decide (b = 0 ∨ (a = 0x80000000 ∧ b = 0xFFFFFFFF)) := by
  rw [Bool.eq_iff_iff]
  simp only [divideFails, Bool.or_eq_true, Bool.and_eq_true, beq_iff_eq, decide_eq_true_eq]

/-- The most negative word by -1 is the only quotient that does not fit in 32 signed bits. -/
theorem toInt_ofInt_tdiv {a b : Word} (h : ¬ (a = 0x80000000 ∧ b = 0xFFFFFFFF)) :
    (BitVec.ofInt 32 (a.toInt.tdiv b.toInt)).toInt = a.toInt.tdiv b.toInt := by
  rw [BitVec.toInt_ofInt, ← BitVec.toInt_sdiv]
  exact BitVec.toInt_sdiv_of_ne_or_ne a b (not_and_or.mp h)

theorem toNat_ofNat_div (a b : Word) : (BitVec.ofNat 32 (a.toNat / b.toNat)).toNat = a.toNat / b.toNat := by
  rw [BitVec.toNat_ofNat]
  exact Nat.mod_eq_of_lt (Nat.lt_of_le_of_lt (Nat.div_le_self ..) a.isLt)

/-! ## The endings, in terms of the exact result -/

section

variable {rd : GprNum} {s : State}

/-- The instructions that may set OV: the result word and OV stand for one exact integer. -/
theorem finishOverflow_exact {v : Word} {ov oe rc : Bool} {n : Int} (hv : BitVec.ofInt 32 n = v) (hov : ov = notFits n) :
    ∃ t, finishOverflow rd v ov oe rc s = .next t ∧ fixedEnds rd (BitVec.ofInt 32 n) oe (notFits n) none rc s t := by
  subst hv hov
  exact finishOverflow_ends ..

/-- What is said of the value is said of the register that holds it. -/
theorem fixedEnds_gpr {v : Word} {oe ov rc : Bool} {ca : Option Bool} {t : State} {Q : Word → Prop}
    (h : fixedEnds rd v oe ov ca rc s t) (hv : Q v) : fixedEnds rd (t.gpr rd) oe ov ca rc s t ∧ Q (t.gpr rd) := by
  have ⟨_, ⟨hgpr, _⟩, _⟩ := h
  rw [hgpr]
  exact ⟨h, hv⟩

/-- The instructions without XER bits whose result is known by a property. -/
theorem finishResult_satisfies {v : Word} {rc : Bool} (Q : Word → Prop) (hv : Q v) :
    ∃ t, finishResult rd v rc s = .next t ∧ fixedEnds rd (t.gpr rd) false false none rc s t ∧ Q (t.gpr rd) := by
  obtain ⟨t, ht, hends⟩ := finishResult_ends rd v rc s
  exact ⟨t, ht, fixedEnds_gpr hends hv⟩

/-- The divisions: 0 and OV in the corner cases `C`, elsewhere a quotient known by a property. -/
theorem finishOverflow_quotient {v q : Word} {ov oe rc : Bool} {C : Prop} [Decidable C] (Q : Word → Prop)
    (hv : v = if C then 0 else q) (hov : ov = decide C) (hq : ¬ C → Q q) :
    ∃ t, finishOverflow rd v ov oe rc s = .next t ∧
      if C then fixedEnds rd 0 oe true none rc s t else fixedEnds rd (t.gpr rd) oe false none rc s t ∧ Q (t.gpr rd) := by
  obtain ⟨t, ht, hends⟩ := finishOverflow_ends rd v ov oe rc s
  refine ⟨t, ht, ?_⟩
  by_cases hC : C
  · rw [hv, hov, if_pos hC, decide_eq_true hC] at hends
    rwa [if_pos hC]
  · rw [hv, hov, if_neg hC, decide_eq_false hC] at hends
    rw [if_neg hC]
    exact fixedEnds_gpr hends (hq hC)

variable {x y : Word} {cin rc : Bool} {n : Int} {P : Prop} [Decidable P]

/-- The immediate forms with CA: `n` is the exact signed sum of R163, and `P` says that the unsigned one carries. -/
theorem finishCarry_exact (hn : x.toInt + y.toInt + bitInt cin = n) (hP : 2 ^ 32 ≤ x.toNat + y.toNat + bitNat cin ↔ P) :
    ∃ t, finishCarry rd (carrySum x y cin) (carryOut x y cin) rc s = .next t ∧
      fixedEnds rd (BitVec.ofInt 32 n) false false (some (decide P)) rc s t := by
  rw [carrySum_eq_ofInt, hn, carryOut, decide_eq_decide.mpr hP]
  exact finishCarry_ends ..

/-- The carrying adds and subtracts: the same, with OV from `n`. -/
theorem addCarrying_exact {oe : Bool} (hn : x.toInt + y.toInt + bitInt cin = n)
    (hP : 2 ^ 32 ≤ x.toNat + y.toNat + bitNat cin ↔ P) :
    ∃ t, addCarrying rd x y cin oe rc s = .next t ∧
      fixedEnds rd (BitVec.ofInt 32 n) oe (notFits n) (some (decide P)) rc s t := by
  rw [addCarrying, carrySum_eq_ofInt, hn, overflows_eq_notFits, carryOut, decide_eq_decide.mpr hP]
  exact finishCarryOverflow_ends ..

end

end Sys2Proof.Machine

namespace Sys2Proof

section

open Machine

/-! ## O16 to O18: immediate forms, and the register forms without CA -/

/-- Settles O16: the base, the immediate and the product as exact integers, modulo 2^32. -/
theorem immediateArithmetic : Obligations.ImmediateArithmetic := by
  intro rd ra simm s
  have haddi : BitVec.ofInt 32 (baseInt ra s + simm.toInt) = s.raOrZero ra + sext16 simm := by
    rw [← toInt_raOrZero, ← toInt_sext16, ofInt_toInt_add]
  have haddis : BitVec.ofInt 32 (baseInt ra s + simm.toInt * 65536) = s.raOrZero ra + shifted16 simm := by
    rw [← toInt_raOrZero, shifted16_eq_ofInt, BitVec.ofInt_add, BitVec.ofInt_toInt]
  rw [haddi, haddis, ← toInt_sext16]
  exact ⟨finishResult_ends .., finishResult_ends .., finishResult_ends ..⟩

/-- Settles O17: `subfic` adds the complement and 1, which carries exactly where nothing is borrowed. -/
theorem immediateCarrying : Obligations.ImmediateCarrying := by
  intro rd ra simm s
  have hsum : (s.gpr ra).toInt + (sext16 simm).toInt + bitInt false = (s.gpr ra).toInt + simm.toInt := by
    rw [toInt_sext16, bitInt_false, Int.add_zero]
  refine ⟨finishCarry_exact hsum Iff.rfl, finishCarry_exact hsum Iff.rfl, finishCarry_exact ?_ ?_⟩
  · rw [toInt_not_eq, toInt_sext16, bitInt_true]
    omega
  · rw [carry_not_iff, bitNat_true, sext16]
    omega

/-- Settles O18: the word is the exact result modulo 2^32, and OV is that result's own. -/
theorem addSubtractMultiply : Obligations.AddSubtractMultiply := by
  intro rd ra rb z oe rc s
  refine ⟨finishOverflow_exact (ofInt_toInt_add ..) (overflows_eq_notFits _),
    finishOverflow_exact (ofInt_toInt_sub ..) (overflows_eq_notFits _),
    finishOverflow_exact ?_ (notFits_neg _).symm, finishOverflow_exact (ofInt_toInt_mul ..) (overflows_eq_notFits _)⟩
  rw [BitVec.ofInt_neg, BitVec.ofInt_toInt]
  exact BitVec.neg_eq_not_add _

/-! ## O19, O20: the register forms with CA -/

/-- Settles O19: each is the sum of R163 of its two addends and the carry-in. -/
theorem addCarrying : Obligations.AddCarrying := by
  intro rd ra rb z oe rc s
  rw [caInt_eq, caNat_eq]
  refine ⟨addCarrying_exact (Int.add_zero _) Iff.rfl, addCarrying_exact rfl Iff.rfl, addCarrying_exact ?_ ?_,
    addCarrying_exact ?_ ?_⟩
  · rw [toInt_ones]
    omega
  · exact carry_ones_iff ..
  · rw [toInt_zero_word, Int.add_zero]
  · rw [toNat_zero_word, Nat.add_zero]

/-- Settles O20: each is the sum of R163 of the complement of RA, the other addend and the carry-in; it carries exactly where
nothing is borrowed. -/
theorem subtractCarrying : Obligations.SubtractCarrying := by
  intro rd ra rb z oe rc s
  rw [caInt_eq, caNat_eq]
  refine ⟨addCarrying_exact ?_ ?_, addCarrying_exact ?_ ?_, addCarrying_exact ?_ ?_, addCarrying_exact ?_ ?_⟩
  · rw [toInt_not_eq, bitInt_true]
    omega
  · rw [carry_not_iff, bitNat_true]
    omega
  · rw [toInt_not_eq]
    omega
  · exact carry_not_iff ..
  · rw [toInt_not_eq, toInt_ones]
    omega
  · rw [carry_ones_iff, ne_eq, BitVec.not_eq_comm]
    rfl
  · rw [toInt_not_eq, toInt_zero_word]
    omega
  · exact carry_not_zero_iff ..

/-! ## O21, O22: high words and quotients -/

/-- Settles O21: the high word is the product's quotient by 2^32, which fits, and the low word is the remainder. -/
theorem multiplyHigh : Obligations.MultiplyHigh := by
  intro rd ra rb rc s
  exact ⟨finishResult_satisfies (fun v => v.toInt * 2 ^ 32 + _ = _) (signed_high_low ..),
    finishResult_satisfies (fun v => v.toNat * 2 ^ 32 + _ = _) (unsigned_high_low ..)⟩

/-- Settles O22: the corner cases are the ones that the divisions test, and elsewhere the quotient fits. -/
theorem divide : Obligations.Divide := by
  intro rd ra rb oe rc s
  refine ⟨finishOverflow_quotient (fun v => v.toInt = _) ?_ (divideFails_eq_decide ..)
    fun h => toInt_ofInt_tdiv fun hcorner => h (.inr hcorner),
    finishOverflow_quotient (fun v => v.toNat = _) rfl rfl fun _ => toNat_ofNat_div ..⟩
  simp only [divideFails_eq_decide, decide_eq_true_eq]

end

end Sys2Proof

/-! PROOFS of the family 42_fixed_point_logical_compare_shift.md: logic, compares, rotates and shifts (R201 to R229) bit by bit. The
first part says what each bit of the words is that the model computes, bit 0 the most significant; the second how the shared endings
end in terms of the bits or of the order; each obligation is then, for each instruction, its ending with the bits of its word. -/

namespace Sys2Proof.Machine

/-! ## Bits of the immediates and of the sign extensions (R201 to R206, R215, R216) -/

theorem getMsbD_zext16 (u : BitVec 16) (k : Nat) : (zext16 u).getMsbD k = (decide (16 ≤ k) && u.getMsbD (k - 16)) := by
  have hk : k + 16 - 32 = k - 16 := by omega
  rw [zext16, BitVec.getMsbD_setWidth, hk]

theorem getMsbD_shifted16 (u : BitVec 16) (k : Nat) : (shifted16 u).getMsbD k = u.getMsbD k := by
  have hle : 32 - 16 ≤ k + 16 := by omega
  have hk : k + 16 + 16 - 32 = k := by omega
  rw [shifted16, BitVec.getMsbD_shiftLeft, BitVec.getMsbD_setWidth, decide_eq_true hle, Bool.true_and, hk]

theorem toNat_zext16 (u : BitVec 16) : (zext16 u).toNat = u.toNat := BitVec.toNat_setWidth_of_le (by decide)

/-- Sign extension of the low `n` bits: their first bit, bit `32 - n` of the word, stands at every place above it. -/
theorem getMsbD_signExtend_low (w : Word) {n k : Nat} (hn : 0 < n) (hn' : n ≤ 32) (hk : k < 32) :
    ((w.setWidth n).signExtend 32).getMsbD k = w.getMsbD (max k (32 - n)) := by
  have hlow (j : Nat) : (w.setWidth n).getMsbD j = w.getMsbD (j + 32 - n) := by
    have hle : n - 32 ≤ j := by omega
    rw [BitVec.getMsbD_setWidth, decide_eq_true hle, Bool.true_and]
  rw [BitVec.getMsbD_signExtend, decide_eq_true hk, Bool.true_and, BitVec.msb_eq_getMsbD_zero, hlow, hlow]
  split <;> exact congrArg w.getMsbD (by omega)

/-! ## Leading zeros (R217) -/

theorem getMsbD_eq_testBit (w : Word) {k : Nat} (hk : k < 32) : w.getMsbD k = w.toNat.testBit (31 - k) := by
  rw [BitVec.getMsbD, decide_eq_true hk, Bool.true_and]
  rfl

theorem leadingZeros_le (w : Word) : leadingZeros w ≤ 32 := by
  unfold leadingZeros
  split
  · exact Nat.le_refl _
  · omega

theorem toNat_ofNat_leadingZeros (w : Word) : (BitVec.ofNat 32 (leadingZeros w)).toNat = leadingZeros w := by
  have hle := leadingZeros_le w
  rw [BitVec.toNat_ofNat]
  exact Nat.mod_eq_of_lt (by omega)

/-- Bits above the logarithm of a number are 0. -/
theorem getMsbD_of_lt_leadingZeros (w : Word) {k : Nat} (hk : k < leadingZeros w) : w.getMsbD k = false := by
  unfold leadingZeros at hk
  split at hk
  · next h => rw [h]; exact BitVec.getMsbD_zero
  · next h =>
    rw [getMsbD_eq_testBit w (by omega)]
    exact Nat.testBit_lt_two_pow (Nat.lt_log2_self.trans_le (Nat.pow_le_pow_right (by decide) (by omega)))

/-- The bit at the logarithm of a number is 1. -/
theorem getMsbD_leadingZeros (w : Word) (h : leadingZeros w < 32) : w.getMsbD (leadingZeros w) = true := by
  have hw : w ≠ 0 := fun h0 => by
    rw [leadingZeros, if_pos h0] at h
    exact Nat.lt_irrefl _ h
  have hw' : w.toNat ≠ 0 := fun h0 => hw (BitVec.eq_of_toNat_eq h0)
  have hlog : Nat.log2 w.toNat < 32 := (Nat.log2_lt hw').mpr w.isLt
  have hk : 31 - leadingZeros w = Nat.log2 w.toNat := by
    rw [leadingZeros, if_neg hw]
    omega
  rw [getMsbD_eq_testBit w h, hk]
  exact Nat.testBit_log2 hw'

/-! ## Rotation and MASK (R222) -/

theorem getMsbD_shiftRight (w : Word) (n : Nat) {k : Nat} (hk : k < 32) :
    (w >>> n).getMsbD k = (decide (n ≤ k) && w.getMsbD (k - n)) := by
  rw [BitVec.getMsbD_ushiftRight, decide_eq_true hk, Bool.true_and, ← decide_not]
  simp only [Nat.not_lt]

theorem rotl_eq_rotateLeft (x : Word) (n : BitVec 5) : rotl x n = x.rotateLeft n.toNat := by
  rw [BitVec.rotateLeft_def, Nat.mod_eq_of_lt n.isLt]
  rfl

theorem getMsbD_rotl (x : Word) (n : BitVec 5) {k : Nat} (hk : k < 32) :
    (rotl x n).getMsbD k = x.getMsbD ((k + n.toNat) % 32) := by
  rw [rotl_eq_rotateLeft, BitVec.getMsbD_rotateLeft, decide_eq_true hk, Bool.true_and, Nat.add_comm]

theorem getMsbD_ones (k : Nat) : (0xFFFFFFFF : Word).getMsbD k = decide (k < 32) := BitVec.getMsbD_allOnes (v := 32)

/-- MASK joins the ones from `mb` on with the ones up to `me`: by AND where they meet, by OR where they wrap around. -/
theorem getMsbD_mask (mb me : BitVec 5) {k : Nat} (hk : k < 32) : (mask mb me).getMsbD k = inMask mb me k := by
  have hme := me.isLt
  have hfrom : ((0xFFFFFFFF : Word) >>> mb.toNat).getMsbD k = decide (mb.toNat ≤ k) := by
    have hlt : k - mb.toNat < 32 := by omega
    rw [getMsbD_shiftRight _ _ hk, getMsbD_ones, decide_eq_true hlt, Bool.and_true]
  have hupTo : ((0xFFFFFFFF : Word) <<< (31 - me.toNat)).getMsbD k = decide (k ≤ me.toNat) := by
    rw [BitVec.getMsbD_shiftLeft, getMsbD_ones, decide_eq_decide]
    omega
  unfold mask inMask
  split
  · rw [BitVec.getMsbD_and, hfrom, hupTo]
  · rw [BitVec.getMsbD_or, hfrom, hupTo]

/-! ## Shifts (R226 to R229) -/

theorem shiftCount_eq (w : Word) : shiftCount w = w.toNat % 64 := by
  rw [shiftCount, BitVec.toNat_and]
  exact Nat.and_two_pow_sub_one_eq_mod _ 6

/-- A count of 32 or more needs no case of its own: the shift by it leaves no bit. -/
theorem ite_shiftLeft (w : Word) (n : Nat) : (if n < 32 then w <<< n else 0) = w <<< n := by
  split
  · rfl
  · next h => exact (BitVec.shiftLeft_eq_zero (Nat.le_of_not_lt h)).symm

theorem ite_ushiftRight (w : Word) (n : Nat) : (if n < 32 then w >>> n else 0) = w >>> n := by
  split
  · rfl
  · next h => exact (BitVec.ushiftRight_eq_zero (Nat.le_of_not_lt h)).symm

/-- Bits that come from above bit 0 are the sign, whatever the count. -/
theorem getMsbD_shiftAlgebraic (w : Word) (n : Nat) {k : Nat} (hk : k < 32) :
    (shiftAlgebraic w n).getMsbD k = w.getMsbD (k - n) := by
  unfold shiftAlgebraic
  split
  · rw [BitVec.getMsbD_sshiftRight, decide_eq_true hk, Bool.true_and]
    split
    · next h => rw [BitVec.msb_eq_getMsbD_zero, Nat.sub_eq_zero_of_le (Nat.le_of_lt h)]
    · rfl
  · next h =>
    have hn : k ≤ n := by omega
    rw [Nat.sub_eq_zero_of_le hn, ← BitVec.msb_eq_getMsbD_zero]
    cases w.msb
    · exact BitVec.getMsbD_zero
    · exact (getMsbD_ones k).trans (decide_eq_true hk)

/-- A negative source loses a one to every count of 32 or more: its sign. -/
theorem shiftCarry_eq (w : Word) (n : Nat) : shiftCarry w n = (w.getMsbD 0 && decide (w.toNat % 2 ^ n ≠ 0)) := by
  rw [← BitVec.msb_eq_getMsbD_zero]
  unfold shiftCarry
  split
  · rfl
  · next h =>
    have hlt : w.toNat < 2 ^ n := w.isLt.trans_le (Nat.pow_le_pow_right (by decide) (Nat.le_of_not_lt h))
    rw [Nat.mod_eq_of_lt hlt]
    cases hs : w.msb
    · rfl
    · have hge := BitVec.toNat_ge_of_msb_true hs
      exact (decide_eq_true (by omega)).symm

/-! ## The endings, in terms of the bits and of the order -/

section

variable {ra : GprNum} {v : Word} {rc : Bool} {s : State}

/-- The instructions whose result is known bit by bit. -/
theorem finishResult_bits {f : Nat → Bool} (hf : ∀ k, k < 32 → v.getMsbD k = f k) :
    ∃ t, finishResult ra v rc s = .next t ∧ logicalEnds ra f rc s t := by
  obtain ⟨t, ht, hends, hbits⟩ := finishResult_satisfies (fun v => ∀ k, k < 32 → v.getMsbD k = f k) hf
  exact ⟨t, ht, hbits, hends⟩

/-- The arithmetic shifts, for a count from a register or from the word (R228, R229). -/
theorem finishCarry_shiftAlgebraic (w : Word) (n : Nat) :
    ∃ t, finishCarry ra (shiftAlgebraic w n) (shiftCarry w n) rc s = .next t ∧
      (∀ k, k < 32 → (t.gpr ra).getMsbD k = w.getMsbD (k - n)) ∧
      fixedEnds ra (t.gpr ra) false false (some (w.getMsbD 0 && decide (w.toNat % 2 ^ n ≠ 0))) rc s t := by
  obtain ⟨t, ht, hends⟩ := finishCarry_ends ra (shiftAlgebraic w n) (shiftCarry w n) rc s
  rw [shiftCarry_eq] at hends
  obtain ⟨hends, hbits⟩ := fixedEnds_gpr (Q := fun v => ∀ k, k < 32 → v.getMsbD k = w.getMsbD (k - n)) hends
    fun _ hk => getMsbD_shiftAlgebraic w n hk
  exact ⟨t, ht, hbits, hends⟩

/-- The signed compares: the field holds the order of the integers and SO (R218, R219). -/
theorem finishCompare_signed (n : CrField) (a b : Word) :
    ∃ t, finishCompare n (compareSigned a b s.so) s = .next t ∧ crOnly s t ∧
      crField n (decide (a.toInt < b.toInt)) (decide (b.toInt < a.toInt)) (decide (a.toInt = b.toInt))
        (s.xer.getMsbD 0) s t := by
  obtain ⟨hlt, hgt, heq, hso⟩ := compareSigned_bits a b s.so
  have h := finishCompare_ends n (compareSigned a b s.so) s
  rwa [hlt, hgt, heq, hso] at h

/-- The unsigned compares: the same over the natural numbers (R220, R221). -/
theorem finishCompare_unsigned (n : CrField) (a b : Word) :
    ∃ t, finishCompare n (compareUnsigned a b s.so) s = .next t ∧ crOnly s t ∧
      crField n (decide (a.toNat < b.toNat)) (decide (b.toNat < a.toNat)) (decide (a.toNat = b.toNat))
        (s.xer.getMsbD 0) s t := by
  obtain ⟨hlt, hgt, heq, hso⟩ := compareUnsigned_bits a b s.so
  have h := finishCompare_ends n (compareUnsigned a b s.so) s
  rwa [hlt, hgt, heq, hso] at h

end

end Sys2Proof.Machine

namespace Sys2Proof

section

open Machine

/-! ## O23 to O25: logic, sign extension, leading zeros -/

/-- Settles O23: the bits of the immediate stand in the right or in the left half. -/
theorem logicalImmediate : Obligations.LogicalImmediate := by
  intro rs ra u s
  refine ⟨finishResult_bits ?_, finishResult_bits ?_, finishResult_bits ?_, finishResult_bits ?_, finishResult_bits ?_,
    finishResult_bits ?_⟩
  · exact fun k _ => by rw [BitVec.getMsbD_and, getMsbD_zext16]
  · exact fun k _ => by rw [BitVec.getMsbD_and, getMsbD_shifted16]
  · exact fun k _ => by rw [BitVec.getMsbD_or, getMsbD_zext16]
  · exact fun k _ => by rw [BitVec.getMsbD_or, getMsbD_shifted16]
  · exact fun k _ => by rw [BitVec.getMsbD_xor, getMsbD_zext16]
  · exact fun k _ => by rw [BitVec.getMsbD_xor, getMsbD_shifted16]

/-- Settles O24: each operation on words is the operation on each of the 32 bits. -/
theorem logicalRegister : Obligations.LogicalRegister := by
  intro rs ra rb rc s
  have hnot (w : Word) {k : Nat} (hk : k < 32) : (~~~ w).getMsbD k = !w.getMsbD k := by
    rw [BitVec.getMsbD_not, decide_eq_true hk, Bool.true_and]
  refine ⟨finishResult_bits ?_, finishResult_bits ?_, finishResult_bits ?_, finishResult_bits ?_, finishResult_bits ?_,
    finishResult_bits ?_, finishResult_bits ?_, finishResult_bits ?_⟩
  · exact fun k _ => BitVec.getMsbD_and
  · exact fun k _ => BitVec.getMsbD_or
  · exact fun k _ => BitVec.getMsbD_xor
  · exact fun k hk => by rw [hnot _ hk, BitVec.getMsbD_and]
  · exact fun k hk => by rw [hnot _ hk, BitVec.getMsbD_or]
  · exact fun k hk => by rw [BitVec.getMsbD_and, hnot _ hk]
  · exact fun k hk => by rw [BitVec.getMsbD_or, hnot _ hk]
  · exact fun k hk => by rw [hnot _ hk, BitVec.getMsbD_xor]

/-- Settles O25: the two extensions are one lemma at 8 and at 16 bits, and the count is a fact about the logarithm. -/
theorem extendAndCount : Obligations.ExtendAndCount := by
  intro rs ra z rc s
  refine ⟨finishResult_bits fun k hk => getMsbD_signExtend_low _ (by decide) (by decide) hk,
    finishResult_bits fun k hk => getMsbD_signExtend_low _ (by decide) (by decide) hk,
    finishResult_satisfies (fun v => v.toNat ≤ 32 ∧ (∀ k, k < v.toNat → (s.gpr rs).getMsbD k = false) ∧
      (v.toNat < 32 → (s.gpr rs).getMsbD v.toNat = true)) ?_⟩
  rw [toNat_ofNat_leadingZeros]
  exact ⟨leadingZeros_le _, fun k => getMsbD_of_lt_leadingZeros _, getMsbD_leadingZeros _⟩

/-! ## O26: the compares -/

/-- Settles O26: words are equal exactly where the integers they stand for are, and an immediate stands for its own integer. -/
theorem compare : Obligations.Compare := by
  intro crfD z9 z31 l ra rb im s
  have hsigned : s.gpr ra = s.gpr rb ↔ (s.gpr ra).toInt = (s.gpr rb).toInt := BitVec.toInt_inj.symm
  have hunsigned : s.gpr ra = s.gpr rb ↔ (s.gpr ra).toNat = (s.gpr rb).toNat := BitVec.toNat_inj.symm
  refine ⟨?_, ?_, ?_, ?_⟩
  · rw [← toInt_sext16]
    exact finishCompare_signed ..
  · rw [decide_eq_decide.mpr hsigned]
    exact finishCompare_signed ..
  · rw [← toNat_zext16]
    exact finishCompare_unsigned ..
  · rw [decide_eq_decide.mpr hunsigned]
    exact finishCompare_unsigned ..

/-! ## O27, O28: rotates and shifts -/

/-- Settles O27: MASK selects between the rotated bit and 0, or the old bit of RA. -/
theorem rotate : Obligations.Rotate := by
  intro rs ra rb sh mb me rc s
  refine ⟨finishResult_bits fun k hk => ?_, finishResult_bits fun k hk => ?_, finishResult_bits fun k hk => ?_⟩
  · rw [BitVec.getMsbD_and, getMsbD_rotl _ _ hk, getMsbD_mask _ _ hk, Bool.and_comm]
  · rw [BitVec.getMsbD_or, BitVec.getMsbD_and, BitVec.getMsbD_and, BitVec.getMsbD_not, getMsbD_rotl _ _ hk,
      getMsbD_mask _ _ hk, decide_eq_true hk]
    cases inMask mb me k <;> simp
  · rw [BitVec.getMsbD_and, getMsbD_rotl _ _ hk, getMsbD_mask _ _ hk, BitVec.toNat_setWidth, Bool.and_comm]

/-- Settles O28: the logical shifts need no case for the counts above 31, and the arithmetic ones share one ending. -/
theorem shift : Obligations.Shift := by
  intro rs ra rb sh rc s
  rw [← shiftCount_eq]
  refine ⟨finishResult_bits fun k hk => ?_, finishResult_bits fun k hk => ?_, finishCarry_shiftAlgebraic ..,
    finishCarry_shiftAlgebraic ..⟩
  · rw [ite_shiftLeft, BitVec.getMsbD_shiftLeft]
  · rw [ite_ushiftRight, getMsbD_shiftRight _ _ hk]

end

end Sys2Proof

/-! PROOFS of the family 43_fixed_point_load_store.md: loads and stores (R250 to R300). The first part says what the bytes of a port
call are as values, and the bytes of a value as a port call sends them; the second ties each instruction to the shared operation it
runs, once for each form; the third says what comes of one access (`OneAccess`) and which words many accesses give
(`multiLoad_words`). The obligations follow from the forms, and no proof about an obligation looks at an instruction. -/

namespace Sys2Proof.Machine

/-! ## Effective addresses as sums (R250) -/

theorem toNat_add_sext16 (x : Word) (d : BitVec 16) :
    ((x + sext16 d).toNat : Int) = ((x.toNat : Int) + d.toInt) % 2 ^ 32 := by
  rw [← toInt_sext16, BitVec.toNat_add, BitVec.toInt_eq_toNat_cond]
  split
  all_goals omega

theorem toNat_raOrZero (s : State) (ra : GprNum) : (s.raOrZero ra).toNat = if ra = 0 then 0 else (s.gpr ra).toNat := by
  rw [State.raOrZero]
  split
  · rfl
  · rfl

/-! ## The bytes read, as values (20_memory.md R62) -/

theorem readBytes_one (m : Memory) (a : Nat) : readBytes m a 1 = (readByte m a).setWidth 64 := by
  simp [readBytes]

/-- A big-endian doubleword is its eight bytes joined. -/
theorem readBytes_eight (m : Memory) (a : Nat) :
    readBytes m a 8 = readByte m a ++ readByte m (a + 1) ++ readByte m (a + 2) ++ readByte m (a + 3) ++
      readByte m (a + 4) ++ readByte m (a + 5) ++ readByte m (a + 6) ++ readByte m (a + 7) := by
  apply BitVec.eq_of_getLsbD_eq
  intro i hi
  simp only [readBytes, BitVec.getLsbD_append, BitVec.getLsbD_setWidth, BitVec.getLsbD_or, BitVec.getLsbD_shiftLeft]
  interval_cases i <;> simp

/-- The value of a port read of one byte. -/
theorem lowWord_byte (b : Byte) : lowWord (b.setWidth 64) = b.setWidth 32 := BitVec.setWidth_setWidth_of_le _ (by decide)

theorem lowWord_readBytes_one (m : Memory) (a : Nat) : lowWord (readBytes m a 1) = (readByte m a).setWidth 32 := by
  rw [readBytes_one, lowWord_byte]

theorem lowWord_readBytes_two (m : Memory) (a : Nat) :
    lowWord (readBytes m a 2) = (readByte m a ++ readByte m (a + 1)).setWidth 32 := by
  apply BitVec.eq_of_getLsbD_eq
  intro i hi
  simp only [lowWord, readBytes, BitVec.getLsbD_append, BitVec.getLsbD_setWidth, BitVec.getLsbD_or, BitVec.getLsbD_shiftLeft]
  interval_cases i <;> simp

theorem signedHalf_readBytes_two (m : Memory) (a : Nat) :
    signedHalf (readBytes m a 2) = (readByte m a ++ readByte m (a + 1)).signExtend 32 := by
  rw [signedHalf, readBytes_two]

/-! ## Byte reversal (R290) -/

theorem swap16_append (x y : Byte) : swap16 ((x ++ y).setWidth 32) = (y ++ x).setWidth 32 := by
  apply BitVec.eq_of_getLsbD_eq
  intro i hi
  simp only [swap16, BitVec.getLsbD_append, BitVec.getLsbD_setWidth, BitVec.getLsbD_or, BitVec.getLsbD_shiftLeft,
    BitVec.getLsbD_and, BitVec.getLsbD_ushiftRight]
  interval_cases i <;> simp

theorem swap32_append (x y z w : Byte) : swap32 (x ++ y ++ z ++ w) = w ++ z ++ y ++ x := by
  apply BitVec.eq_of_getLsbD_eq
  intro i hi
  simp only [swap32, BitVec.getLsbD_append, BitVec.getLsbD_or, BitVec.getLsbD_shiftLeft, BitVec.getLsbD_and,
    BitVec.getLsbD_ushiftRight]
  interval_cases i <;> simp

theorem lowHalf_swap16 (v : Word) : lowHalf (swap16 v) = (lowHalf v).reverse := by
  simp only [lowHalf, List.reverse_cons, List.reverse_nil, List.nil_append, List.cons_append, List.cons.injEq, and_true]
  and_intros
  all_goals
    ext i hi
    simp only [swap16, BitVec.getElem_extractLsb', BitVec.getLsbD_or, BitVec.getLsbD_shiftLeft, BitVec.getLsbD_and,
      BitVec.getLsbD_ushiftRight]
    interval_cases i <;> simp

/-- A word is its four bytes. -/
theorem eq_append_bytes (v : Word) :
    v = v.extractLsb' 24 8 ++ v.extractLsb' 16 8 ++ v.extractLsb' 8 8 ++ v.extractLsb' 0 8 := by
  simp (disch := decide) only [BitVec.extractLsb'_append_extractLsb'_eq_extractLsb']
  exact BitVec.extractLsb'_eq_self.symm

theorem wordBytes_append (x y z w : Byte) : wordBytes (x ++ y ++ z ++ w) = [x, y, z, w] := by
  simp (disch := decide) only [wordBytes, BitVec.extractLsb'_append_eq_of_le, BitVec.extractLsb'_append_eq_of_add_le,
    Nat.sub_self, Nat.reduceSub, BitVec.extractLsb'_eq_self]

theorem wordBytes_swap32 (v : Word) : wordBytes (swap32 v) = (wordBytes v).reverse := by
  rw [eq_append_bytes v, swap32_append, wordBytes_append, wordBytes_append]
  rfl

/-! ## The bytes sent (R252) -/

theorem sentBytes_eq_extract (w : Width) (v : DWord) :
    sentBytes w v = (List.range w.bytes).map fun k => v.extractLsb' (8 * (w.bytes - 1 - k)) 8 := by
  have hbyte (n : Nat) : (v >>> n).setWidth 8 = v.extractLsb' n 8 := by
    ext i hi
    rw [BitVec.getElem_setWidth, BitVec.getLsbD_ushiftRight, BitVec.getElem_extractLsb']
  simp only [sentBytes, hbyte]

theorem extractLsb'_asPort (v : Word) {n : Nat} (hn : n ≤ 56) : (asPort v).extractLsb' n 8 = v.extractLsb' n 8 :=
  BitVec.extractLsb'_setWidth_of_le (Nat.add_le_add_right hn 8)

theorem sentBytes_byte (v : Word) : sentBytes .byte (asPort v) = lowByte v := by
  rw [sentBytes_eq_extract, lowByte, ← extractLsb'_asPort v (n := 0) (by decide)]
  rfl

theorem sentBytes_half (v : Word) : sentBytes .half (asPort v) = lowHalf v := by
  rw [sentBytes_eq_extract, lowHalf, ← extractLsb'_asPort v (n := 8) (by decide), ← extractLsb'_asPort v (n := 0) (by decide)]
  rfl

theorem sentBytes_double (d : DWord) : sentBytes .double d = doubleBytes d := by
  have hhigh (n : Nat) (hn : n + 8 ≤ 32) : (d.extractLsb' 32 32).extractLsb' n 8 = d.extractLsb' (32 + n) 8 := by
    ext i hi
    have hlt : n + i < 32 := by omega
    simp [hlt, Nat.add_assoc]
  simp (disch := decide) only [sentBytes_eq_extract, doubleBytes, wordBytes, hhigh, BitVec.extractLsb'_extractLsb'_of_le]
  rfl

/-! ## The loads and stores of one access, by the shared operation each runs -/

section

variable {i : Instr} {s : State}

/-- A fixed-point load converts the value read to the one its form names. -/
theorem exec_of_loadForm {f : LoadForm} (h : loadForm i s = some f) :
    ∃ conv, exec i s = loadGpr f.width conv f.rd f.ea f.base s ∧
      ∀ m a, conv (readBytes m a f.width.bytes) = f.value fun k => readByte m (a + k) := by
  cases i with
  | lbz | lbzx | lbzu | lbzux => cases h; exact ⟨lowWord, rfl, lowWord_readBytes_one⟩
  | lhz | lhzx | lhzu | lhzux => cases h; exact ⟨lowWord, rfl, lowWord_readBytes_two⟩
  | lha | lhax | lhau | lhaux => cases h; exact ⟨signedHalf, rfl, signedHalf_readBytes_two⟩
  | lwz | lwzx | lwzu | lwzux => cases h; exact ⟨lowWord, rfl, lowWord_readBytes_four⟩
  | lhbrx =>
    cases h
    exact ⟨_, rfl, fun m a => (congrArg swap16 (lowWord_readBytes_two m a)).trans (swap16_append ..)⟩
  | lwbrx =>
    cases h
    exact ⟨_, rfl, fun m a => (congrArg swap32 (lowWord_readBytes_four m a)).trans (swap32_append ..)⟩
  | _ => cases h

/-- A floating-point load likewise (46_floating_point_load_store.md R420). -/
theorem exec_of_floatLoadForm {f : FloatLoadForm} (h : floatLoadForm i s = some f) :
    ∃ conv, exec i s = loadFpr f.width conv f.frd f.ea f.base s ∧
      ∀ m a, conv (readBytes m a f.width.bytes) = f.value fun k => readByte m (a + k) := by
  cases i with
  | lfs | lfsx | lfsu | lfsux =>
    cases h
    exact ⟨_, rfl, fun m a => congrArg toDouble (lowWord_readBytes_four m a)⟩
  | lfd | lfdx | lfdu | lfdux => cases h; exact ⟨id, rfl, readBytes_eight⟩
  | _ => cases h

/-- The instruction is a store of one access, of a value whose bytes sent are those its form names. -/
def RunsStore (i : Instr) (s : State) (f : StoreForm) : Prop :=
  ∃ v, exec i s = storeValue f.width v f.ea f.base s ∧ sentBytes f.width v = f.bytes

theorem runsStore_of_storeForm {f : StoreForm} (h : storeForm i s = some f) : RunsStore i s f := by
  cases i with
  | stb | stbx | stbu | stbux => cases h; exact ⟨_, rfl, sentBytes_byte _⟩
  | sth | sthx | sthu | sthux => cases h; exact ⟨_, rfl, sentBytes_half _⟩
  | stw | stwx | stwu | stwux => cases h; exact ⟨_, rfl, sentBytes_word _⟩
  | sthbrx => cases h; exact ⟨_, rfl, (sentBytes_half _).trans (lowHalf_swap16 _)⟩
  | stwbrx => cases h; exact ⟨_, rfl, (sentBytes_word _).trans (wordBytes_swap32 _)⟩
  | _ => cases h

theorem runsStore_of_floatStoreForm {f : StoreForm} (h : floatStoreForm i s = some f) : RunsStore i s f := by
  cases i with
  | stfs | stfsx | stfsu | stfsux => cases h; exact ⟨_, rfl, sentBytes_word _⟩
  | stfd | stfdx | stfdu | stfdux => cases h; exact ⟨_, rfl, sentBytes_double _⟩
  | stfiwx frs =>
    cases h
    have hlow : lowWord (s.fpr frs) = (s.fpr frs).extractLsb' 0 32 := BitVec.setWidth_eq_extractLsb' (by decide)
    exact ⟨_, rfl, (sentBytes_word _).trans (congrArg wordBytes hlow)⟩
  | _ => cases h

/-! ## What comes of one access (R252, 20_memory.md R66 to R68, 60_exceptions.md R547) -/

/-- The result `r` of an instruction that makes one access: the next state is `done` where EA is aligned and the port answers; else
the access fails, by the check of R547 that comes first. -/
structure OneAccess (rw : Rw) (ea : Word) (w : Width) (s done : State) (r : Result) : Prop where
  completes : ea.toNat % w.bytes = 0 → s.atCall.port.answers rw ea.toNat w.bytes = true → r = .next done
  misaligned : ea.toNat % w.bytes ≠ 0 → r = .next (s.failed (.alignment .data ea w))
  unanswered : ea.toNat % w.bytes = 0 → s.atCall.port.answers rw ea.toNat w.bytes = false →
    r = .next (s.atCall.failed (.memoryFailure rw ea w))

/-- The three branches of a shared operation exclude each other. -/
theorem OneAccess.of_cases {rw : Rw} {ea : Word} {w : Width} {done : State} {r : Result}
    (h : (aligned ea w = true ∧ s.atCall.port.answers rw ea.toNat w.bytes = true ∧ r = .next done) ∨
      (aligned ea w = false ∧ r = .next (s.failed (.alignment .data ea w))) ∨
      (aligned ea w = true ∧ s.atCall.port.answers rw ea.toNat w.bytes = false ∧
        r = .next (s.atCall.failed (.memoryFailure rw ea w)))) : OneAccess rw ea w s done r := by
  have hfalse : aligned ea w = false ↔ ea.toNat % w.bytes ≠ 0 := decide_eq_false_iff_not
  rw [aligned_iff_mod, hfalse] at h
  rcases h with ⟨ha, hp, hr⟩ | ⟨ha, hr⟩ | ⟨ha, hp, hr⟩
  · exact ⟨fun _ _ => hr, fun hn => absurd ha hn, fun _ hn => Bool.noConfusion (hp.symm.trans hn)⟩
  · exact ⟨fun hn => absurd hn ha, fun _ => hr, fun hn => absurd hn ha⟩
  · exact ⟨fun _ hn => Bool.noConfusion (hp.symm.trans hn), fun hn => absurd ha hn, fun _ _ => hr⟩

theorem oneAccess_of_loadForm {f : LoadForm} (h : loadForm i s = some f) :
    OneAccess .read f.ea f.width s
      ((s.atCall.setGpr f.rd (f.value fun k => readByte s.atCall.mem (f.ea.toNat + k))).updateBase f.base f.ea).completed
      (exec i s) := by
  obtain ⟨conv, he, hconv⟩ := exec_of_loadForm h
  rw [he, ← hconv]
  exact .of_cases (loadGpr_cases ..)

theorem oneAccess_of_floatLoadForm {f : FloatLoadForm} (h : floatLoadForm i s = some f) :
    OneAccess .read f.ea f.width s
      ((s.atCall.setFpr f.frd (f.value fun k => readByte s.atCall.mem (f.ea.toNat + k))).updateBase f.base f.ea).completed
      (exec i s) := by
  obtain ⟨conv, he, hconv⟩ := exec_of_floatLoadForm h
  rw [he, ← hconv]
  exact .of_cases (loadFpr_cases ..)

theorem RunsStore.oneAccess {f : StoreForm} (h : RunsStore i s f) :
    ∃ v, sentBytes f.width v = f.bytes ∧
      OneAccess .write f.ea f.width s ((s.atCall.putBytes f.ea f.width v).updateBase f.base f.ea).completed (exec i s) := by
  obtain ⟨v, he, hv⟩ := h
  rw [he]
  exact ⟨v, hv, .of_cases (storeValue_cases ..)⟩

theorem oneAccess_of_singleAccess {rw : Rw} {ea : Word} {w : Width} (h : singleAccess i s = some (rw, ea, w)) :
    ∃ done, OneAccess rw ea w s done (exec i s) := by
  unfold singleAccess at h
  split at h
  case h_1 f hf =>
    cases h
    exact ⟨_, oneAccess_of_loadForm hf⟩
  case h_2 f hf _ =>
    cases h
    exact ⟨_, oneAccess_of_floatLoadForm hf⟩
  case h_3 f hf _ _ =>
    cases h
    obtain ⟨v, -, ho⟩ := (runsStore_of_storeForm hf).oneAccess
    exact ⟨_, ho⟩
  case h_4 f hf _ _ _ =>
    cases h
    obtain ⟨v, -, ho⟩ := (runsStore_of_floatStoreForm hf).oneAccess
    exact ⟨_, ho⟩
  case h_5 => cases h

end

/-! ## How a load and a store of one access complete (R251) -/

section

variable (u : State) (base : Option GprNum) (ea : Word)

theorem gprsOnly_load (rd : GprNum) (v : Word) : gprsOnly u ((u.setGpr rd v).updateBase base ea).completed := by
  cases base with
  | none | some => exact ⟨rfl, fun _ => rfl⟩

/-- The base register is written last, so it holds EA also where it is RD. -/
theorem loadedInto_load {s : State} (hs : u.gprs = s.gprs) (rd : GprNum) (v : Word) :
    loadedInto rd v base ea s ((u.setGpr rd v).updateBase base ea).completed := by
  have hload (x : GprNum) : (u.setGpr rd v).gpr x = if x = rd then v else s.gpr x := by
    rw [gpr_setGpr, gpr_congr hs]
  cases base with
  | none => exact ⟨(hload rd).trans (if_pos rfl), fun x hx => (hload x).trans (if_neg hx)⟩
  | some ra =>
    have hbase (x : GprNum) :
        ((u.setGpr rd v).setGpr ra ea).gpr x = if x = ra then ea else if x = rd then v else s.gpr x := by
      rw [gpr_setGpr, hload]
    refine ⟨(hbase ra).trans (if_pos rfl), fun hne => (hbase rd).trans ?_, fun x hra hrd => (hbase x).trans ?_⟩
    · rw [if_neg hne, if_pos rfl]
    · rw [if_neg hra, if_neg hrd]

theorem storeOnly_store (a : Word) (w : Width) (v : DWord) :
    storeOnly u ((u.putBytes a w v).updateBase base ea).completed := by
  cases base with
  | none | some => rfl

theorem bytesStored_store (a : Word) (w : Width) (v : DWord) :
    bytesStored a.toNat (sentBytes w v) u ((u.putBytes a w v).updateBase base ea).completed := by
  cases base with
  | none | some => exact bytesStored_putBytes u a w v

theorem baseUpdated_updateBase {s : State} (hs : u.gprs = s.gprs) :
    baseUpdated base ea s (u.updateBase base ea).completed := by
  cases base with
  | none => exact fun x => gpr_congr hs x
  | some ra => exact onlyGpr_of_gprs (congrArg (·.set ra.toNat ea ra.isLt) hs)

end

/-- A store of one access, fixed-point or floating-point, where nothing stops it. -/
theorem RunsStore.ends {i : Instr} {s : State} {f : StoreForm} (h : RunsStore i s f)
    (ha : f.ea.toNat % f.width.bytes = 0) (hp : s.atCall.port.answers .write f.ea.toNat f.width.bytes = true) :
    Ends i s fun t => storeOnly s.atCall t ∧ f.bytes.length = f.width.bytes ∧
      bytesStored f.ea.toNat f.bytes s.atCall t ∧ baseUpdated f.base f.ea s t := by
  obtain ⟨v, hv, ho⟩ := h.oneAccess
  rw [← hv]
  exact ⟨_, ho.completes ha hp, storeOnly_store .., length_sentBytes .., bytesStored_store ..,
    baseUpdated_updateBase _ _ _ (atCall_gprs s)⟩

/-! ## The words of a byte string (R300) -/

/-- The `j`-th word of a byte string, the last one padded with zeros. -/
def paddedWord (l : List Byte) (j : Nat) : Word :=
  l.getD (4 * j) 0 ++ l.getD (4 * j + 1) 0 ++ l.getD (4 * j + 2) 0 ++ l.getD (4 * j + 3) 0

theorem or_shiftLeft_bytes (a b c d : Byte) :
    (a.setWidth 32 <<< 24) ||| (b.setWidth 32 <<< 16) ||| (c.setWidth 32 <<< 8) ||| d.setWidth 32 = a ++ b ++ c ++ d := by
  apply BitVec.eq_of_getLsbD_eq
  intro i hi
  simp only [BitVec.getLsbD_append, BitVec.getLsbD_setWidth, BitVec.getLsbD_or, BitVec.getLsbD_shiftLeft]
  interval_cases i <;> simp

/-- Packing takes four bytes at a time, as its recursion does. -/
theorem getElem?_packBytes : ∀ (l : List Byte) (j : Nat),
    (packBytes (l.map (BitVec.setWidth 64)))[j]? = if 4 * j < l.length then some (paddedWord l j) else none
  | [], _ => by simp [packBytes]
  | [_], 0 | [_, _], 0 | [_, _, _], 0 | _ :: _ :: _ :: _ :: _, 0 => by
    simp [packBytes, lowWord_byte, paddedWord, ← or_shiftLeft_bytes]
  | [_], j + 1 | [_, _], j + 1 | [_, _, _], j + 1 => by simp [packBytes, Nat.mul_succ]
  | _ :: _ :: _ :: _ :: l, j + 1 => by simpa [packBytes, paddedWord, Nat.mul_succ] using getElem?_packBytes l j

/-! ## The values of a load of many accesses, and the words they give (R294, R296, R297) -/

/-- The values that the port gives for the accesses, where it answers all of them. -/
def MultiLoadForm.values (f : MultiLoadForm) (s : State) : List DWord :=
  (List.range f.count).map fun k => readBytes (s.afterCalls (k + 1)).mem (f.address k).toNat f.width.bytes

/-- The bytes at the addresses of the accesses, each from the image its own call meets. -/
def MultiLoadForm.bytes (f : MultiLoadForm) (s : State) : List Byte :=
  (List.range f.count).map fun k => readByte (s.afterCalls (k + 1)).mem (f.address k).toNat

/-- What the `j`-th register holds after the load. -/
def MultiLoadForm.word (f : MultiLoadForm) (s : State) (j : Nat) : Word :=
  f.byte s j 0 ++ f.byte s j 1 ++ f.byte s j 2 ++ f.byte s j 3

section

variable {f : MultiLoadForm} {s : State}

theorem readSeq_eq_values (ha : aligned f.ea f.width = true)
    (hok : ∀ k, k < f.count → (s.afterCalls (k + 1)).port.answers .read (f.address k).toNat f.width.bytes = true) :
    State.readSeq f.width (addressesFrom f.ea f.width.bytes f.count) s = (s.afterCalls f.count, .ok (f.values s)) := by
  rw [readSeq_ok, length_addressesFrom]
  · congr 2
    apply List.ext_getElem
    · simp [MultiLoadForm.values]
    · intro k _ _
      simp [MultiLoadForm.values, MultiLoadForm.address]
  · intro k hk
    refine ⟨aligned_of_mem_addressesFrom ha (List.getElem_mem hk), ?_⟩
    rw [getElem_addressesFrom]
    exact hok k (by rwa [length_addressesFrom] at hk)

/-- The bytes of an aligned word do not go around the address space, so they come from one call. -/
theorem word_eq_lowWord (hw : f.width = .word) (ha : aligned f.ea f.width = true) {j : Nat} (hj : j < f.count) :
    f.word s j = lowWord (readBytes (s.afterCalls (j + 1)).mem (f.address j).toNat f.width.bytes) := by
  have hbyte (q : Nat) (hq : q < 4) : f.byte s j q = readByte (s.afterCalls (j + 1)).mem ((f.address j).toNat + q) := by
    rw [hw, aligned_word_iff] at ha
    have hin : 4 * j + q < 4 * f.count := by omega
    have hcall : (4 * j + q) / 4 = j := by omega
    have haddr : (f.ea + BitVec.ofNat 32 (4 * j + q)).toNat = (f.ea + BitVec.ofNat 32 (4 * j)).toNat + q := by
      simp only [BitVec.toNat_add, BitVec.toNat_ofNat]
      omega
    simp only [MultiLoadForm.byte, MultiLoadForm.total, MultiLoadForm.address, hw, Width.bytes, if_pos hin, hcall, haddr]
  rw [MultiLoadForm.word, hbyte 0 (by decide), hbyte 1 (by decide), hbyte 2 (by decide), hbyte 3 (by decide), hw]
  exact (lowWord_readBytes_four ..).symm

theorem getElem?_map_lowWord_values (hw : f.width = .word) (ha : aligned f.ea f.width = true) (j : Nat) :
    ((f.values s).map lowWord)[j]? = if 4 * j < f.total then some (f.word s j) else none := by
  have htotal : f.total = 4 * f.count := by
    rw [MultiLoadForm.total, hw]
    rfl
  rw [htotal]
  by_cases hj : j < f.count
  · have hin : 4 * j < 4 * f.count := by omega
    rw [if_pos hin, word_eq_lowWord hw ha hj]
    simp [MultiLoadForm.values, hj]
  · have hout : ¬ 4 * j < 4 * f.count := by omega
    rw [if_neg hout]
    simp [MultiLoadForm.values, Nat.le_of_not_lt hj]

theorem total_of_byte (hw : f.width = .byte) : f.total = f.count := by
  rw [MultiLoadForm.total, hw]
  exact Nat.one_mul _

theorem values_eq_bytes (hw : f.width = .byte) : f.values s = (f.bytes s).map (BitVec.setWidth 64) := by
  simp only [MultiLoadForm.values, MultiLoadForm.bytes, hw, Width.bytes, readBytes_one, List.map_map]
  rfl

theorem word_eq_paddedWord (hw : f.width = .byte) (j : Nat) : f.word s j = paddedWord (f.bytes s) j := by
  have hbyte (q : Nat) : f.byte s j q = (f.bytes s).getD (4 * j + q) 0 := by
    rw [MultiLoadForm.byte, total_of_byte hw]
    simp only [MultiLoadForm.bytes, MultiLoadForm.address, hw, Width.bytes, Nat.one_mul, Nat.div_one]
    split
    all_goals
      next h => simp [h]
  simp only [MultiLoadForm.word, hbyte]
  rfl

theorem getElem?_packBytes_values (hw : f.width = .byte) (j : Nat) :
    (packBytes (f.values s))[j]? = if 4 * j < f.total then some (f.word s j) else none := by
  have hlen : (f.bytes s).length = f.total := by
    rw [total_of_byte hw, MultiLoadForm.bytes, List.length_map, List.length_range]
  rw [values_eq_bytes hw, getElem?_packBytes, word_eq_paddedWord hw, hlen]

end

/-- How each of the three instructions makes words of its values, and at most how many accesses it has. -/
theorem multiLoad_pack {i : Instr} {s : State} {f : MultiLoadForm} (h : multiLoadForm i s = some f) :
    ∃ pack, exec i s = loadSeq f.width (addressesFrom f.ea f.width.bytes f.count) pack f.rd s ∧
      ((f.width = .word ∧ f.count ≤ 32 ∧ pack = List.map lowWord) ∨
        (f.width = .byte ∧ f.count ≤ 128 ∧ pack = packBytes)) := by
  cases i with
  | lmw rd ra d =>
    obtain ⟨ha, rfl⟩ : (s.eaD ra d).toNat % 4 = 0 ∧ _ = f := by simpa [multiLoadForm] using h
    exact ⟨_, execLmw_of_aligned rd ((aligned_word_iff _).mpr ha), .inl ⟨rfl, Nat.sub_le .., rfl⟩⟩
  | lswi rd ra nb z31 =>
    cases h
    exact ⟨_, by rw [← immediateCount_eq_countOf]; rfl, .inr ⟨rfl, (countOf_le nb).trans (by decide), rfl⟩⟩
  | lswx rd ra rb z31 =>
    cases h
    exact ⟨_, by rw [← byteCount_eq]; rfl, .inr ⟨rfl, (Nat.mod_lt _ (by decide)).le, rfl⟩⟩
  | _ => cases h

/-- The words a load of many accesses puts in its registers: as many as its bytes need, at most one for each register. -/
theorem multiLoad_words {i : Instr} {s : State} {f : MultiLoadForm} (h : multiLoadForm i s = some f) :
    ∃ pack, exec i s = loadSeq f.width (addressesFrom f.ea f.width.bytes f.count) pack f.rd s ∧
      (pack (f.values s)).length ≤ 32 ∧
      ∀ j, (pack (f.values s))[j]? = if 4 * j < f.total then some (f.word s j) else none := by
  obtain ⟨ha, -⟩ := exec_of_multiLoadForm h
  obtain ⟨pack, he, hpack⟩ := multiLoad_pack h
  refine ⟨pack, he, ?_⟩
  rcases hpack with ⟨hw, hn, rfl⟩ | ⟨hw, hn, rfl⟩
  · refine ⟨?_, getElem?_map_lowWord_values hw ha⟩
    simpa [MultiLoadForm.values] using hn
  · refine ⟨List.getElem?_eq_none_iff.mp ?_, getElem?_packBytes_values hw⟩
    have hout : ¬ 4 * 32 < f.total := by
      rw [total_of_byte hw]
      omega
    rw [getElem?_packBytes_values hw, if_neg hout]

/-- The register that word `j` goes to, or that keeps what it held where there is no word `j`. -/
theorem gpr_setGprsFrom_eq_getD {vs : List Word} (hvs : vs.length ≤ 32) (r : GprNum) (s : State) {j : Nat} (hj : j < 32) :
    (s.setGprsFrom r vs).gpr (r + BitVec.ofNat 5 j) = vs[j]?.getD (s.gpr (r + BitVec.ofNat 5 j)) := by
  rw [gpr_setGprsFrom vs hvs r s j hj]
  split
  · next h => rw [List.getElem?_eq_getElem h, Option.getD_some]
  · next h => rw [List.getElem?_eq_none (Nat.le_of_not_lt h), Option.getD_none]

theorem gprsOnly_setGprsFrom (u : State) (r : GprNum) (vs : List Word) : gprsOnly u (u.setGprsFrom r vs).completed := by
  rw [setGprsFrom_fields]
  exact ⟨rfl, fun _ => rfl⟩

/-! ## The stores of a store of many accesses (R295, R298, R299; 48_system_unit.md R500) -/

/-- Writes one after another, where the port answers each: every one stores its bytes over what its own call meets. -/
theorem writeSeq_answered {w : Width} {ws : List (Word × DWord)} {s : State} (ha : ∀ c ∈ ws, aligned c.1 w = true)
    (hok : ∀ (k : Nat) (hk : k < ws.length), (s.afterCalls (k + 1)).port.answers .write ws[k].1.toNat w.bytes = true) :
    ∃ u, StoresTo (ws.map (sentCall w)) s u ∧ u.pc = s.pc ∧ State.writeSeq w ws s = (u, none) := by
  have hstores (l : List (Word × DWord)) (s : State) :
      StoresTo (l.map (sentCall w)) s (l.foldl (fun t c => t.atCall.putBytes c.1 w c.2) s) := by
    induction l generalizing s with
    | nil => rfl
    | cons c l ih => exact ⟨s.atCall.putBytes c.1 w c.2, rfl, bytesStored_putBytes .., ih _⟩
  have hseq := writeSeq_ok w ws s fun k hk => ⟨ha _ (List.getElem_mem hk), hok k hk⟩
  have hpc := congrArg State.pc (writeSeq_fields w ws s)
  rw [hseq] at hpc
  exact ⟨_, hstores ws s, hpc, hseq⟩

theorem storeSeq_of_writeSeq {w : Width} {ws : List (Word × DWord)} {s u : State} (h : State.writeSeq w ws s = (u, none)) :
    storeSeq w ws s = .next u.completed := by
  rw [storeSeq, h]; rfl

theorem loadSeq_of_readSeq {w : Width} {as : List Word} {s u : State} {vs : List DWord} (pack : List DWord → List Word)
    (r : GprNum) (h : State.readSeq w as s = (u, .ok vs)) :
    loadSeq w as pack r s = .next (u.setGprsFrom r (pack vs)).completed := by
  rw [loadSeq, h]; rfl

end Sys2Proof.Machine

namespace Sys2Proof

section

open Machine

/-! ## O29: effective addresses -/

/-- Settles O29: a displacement adds as the integer it stands for, an index as a natural number. -/
theorem effectiveAddresses : Obligations.EffectiveAddresses := by
  intro s ra rb d
  refine ⟨?_, toNat_add_sext16 _ d, ?_, BitVec.toNat_add .., toNat_raOrZero s ra⟩
  · rw [State.eaD, toNat_add_sext16, toNat_raOrZero, Nat.cast_ite, Nat.cast_zero]
  · rw [State.eaX, BitVec.toNat_add, toNat_raOrZero]

/-! ## O30, O31, O34: one access -/

/-- Settles O30: the one access completes with the value of the form in RD, then EA in the base register. -/
theorem loads : Obligations.Loads := by
  intro i s f h ha hp
  exact ⟨_, (oneAccess_of_loadForm h).completes ha hp, gprsOnly_load .., loadedInto_load _ _ _ (atCall_gprs s) ..⟩

/-- Settles O31: the one access completes with the bytes of the form stored. -/
theorem stores : Obligations.Stores := fun _ _ _ h => (runsStore_of_storeForm h).ends

/-- Settles O34: every form of one access fails by the first check of R547 that it does not pass. -/
theorem singleAccessFails : Obligations.SingleAccessFails := by
  intro i s rw ea w h
  obtain ⟨done, ho⟩ := oneAccess_of_singleAccess h
  exact ⟨ho.misaligned, ho.unanswered⟩

/-! ## O35, O36: many accesses -/

/-- Settles O35: the reads give the values, the values the words, and the words go to the registers from RD on. -/
theorem multipleLoads : Obligations.MultipleLoads := by
  intro i s f h hok
  obtain ⟨ha, -⟩ := exec_of_multiLoadForm h
  obtain ⟨pack, he, hlen, hwords⟩ := multiLoad_words h
  refine ⟨_, he.trans (loadSeq_of_readSeq pack f.rd (readSeq_eq_values ha hok)), gprsOnly_setGprsFrom .., fun j hj => ?_⟩
  refine (gpr_setGprsFrom_eq_getD hlen f.rd _ hj).trans ?_
  rw [hwords, gpr_congr (afterCalls_gprs s f.count)]
  split
  · rfl
  · rfl

/-- Settles O36: the writes happen one after another, and since they lie apart, all their bytes stand where nobody comes between. -/
theorem multipleStores : Obligations.MultipleStores := by
  intro i s w l h hok
  obtain ⟨ws, he, hws⟩ := exec_of_multiStoreForm h
  have hapart := hws.apart
  obtain rfl := hws.sent
  simp only [List.length_map, List.getElem_map, sentCall_fst] at hok
  obtain ⟨u, hstores, hpc, hseq⟩ := writeSeq_answered hws.aligned hok
  refine ⟨fun c hc => ?_, _, he.trans (storeSeq_of_writeSeq hseq), ⟨u, hstores, by rw [← hpc]; rfl⟩, fun ht => ?_⟩
  · obtain ⟨c', -, rfl⟩ := List.mem_map.mp hc
    exact length_sentCall_snd w c'
  · have hfirst : firstStored _ _ s u := firstStored_of_storesTo hapart ht (by rwa [List.take_length])
    exact hfirst

end

end Sys2Proof

/-! PROOFS of the family 44_fixed_point_moves.md: the moves to and from special-purpose registers (R320 to R323), CR and MSR.
R320's table is read once, from the class to its numbers (`SprClass.Names`); what `mfspr` reads and what `mtspr` writes follow from
it, class by class. -/

namespace Sys2Proof.Machine

/-! ## R320's table, from the class to its numbers -/

/-- The numbers that belong to a class. -/
def SprClass.Names : SprClass → Nat → Prop
  | .xer, k => k = 1
  | .lr, k => k = 8
  | .ctr, k => k = 9
  | .srr0, k => k = 26
  | .srr1, k => k = 27
  | .tbl, k => k = 268
  | .tbu, k => k = 269
  | .tbWrite, k => k = 284 ∨ k = 285
  | .cell, k => k ≠ 1 ∧ k ≠ 8 ∧ k ≠ 9 ∧ k ≠ 26 ∧ k ≠ 27 ∧ k ≠ 268 ∧ k ≠ 269 ∧ k ≠ 284 ∧ k ≠ 285

theorem names_sprClass (n : SprNum) : (sprClass n).Names n.toNat := by
  unfold sprClass
  split <;> simp_all [SprClass.Names]

/-! ## The halves of the time base (R34) -/

theorem tbl_eq (s : State) : s.tbl = BitVec.ofNat 32 (s.tb.toNat % 2 ^ 32) := by
  apply BitVec.eq_of_toNat_eq
  simp [State.tbl]

theorem tbu_eq (s : State) : s.tbu = BitVec.ofNat 32 (s.tb.toNat / 2 ^ 32) := by
  apply BitVec.eq_of_toNat_eq
  simp [State.tbu, Nat.shiftRight_eq_div_pow]

/-! ## What a number reads (R321, R323) -/

theorem readSpr_eq (s : State) (n : SprNum) :
    s.readSpr n = if n.toNat = 284 ∨ n.toNat = 285 then none else some
      (if n.toNat = 1 then s.xer else if n.toNat = 8 then s.lr else if n.toNat = 9 then s.ctr
       else if n.toNat = 26 then s.srr0 else if n.toNat = 27 then s.srr1
       else if n.toNat = 268 then s.tbl else if n.toNat = 269 then s.tbu else s.sprCell n) := by
  have hn := names_sprClass n
  unfold State.readSpr
  cases hk : sprClass n <;> simp only [hk, SprClass.Names] at hn
  case tbWrite => rw [if_pos hn]
  all_goals simp [hn]

theorem execMftb_eq (rd : GprNum) (n : SprNum) (z31 : BitVec 1) (s : State) :
    execMftb rd n z31 s = if n.toNat = 268 then complete (s.setGpr rd s.tbl)
      else if n.toNat = 269 then complete (s.setGpr rd s.tbu)
      else reportInvalid .mftb (encode (.mftb rd n z31)) s := by
  have hn := names_sprClass n
  unfold execMftb
  cases hk : sprClass n <;> simp only [hk, SprClass.Names] at hn
  case tbWrite => rw [if_neg (by omega), if_neg (by omega)]
  all_goals simp [hn]

/-- A value moved into a general register, and nothing else. -/
theorem completed_setGpr_only (rd : GprNum) (v : Word) (s : State) :
    gprsOnly s (s.setGpr rd v).completed ∧ onlyGpr rd v s (s.setGpr rd v).completed :=
  ⟨⟨rfl, fun _ => rfl⟩, onlyGpr_of_gprs rfl⟩

theorem execMfspr_of_refused {s : State} {n : SprNum} (rd : GprNum) (z31 : BitVec 1) (h : s.readSpr n = none) :
    execMfspr rd n z31 s = reportInvalid .mfspr (encode (.mfspr rd n z31)) s := by
  unfold execMfspr
  rw [h]

/-! ## What a write changes (R322) -/

theorem writeSpr_refuses (s : State) {n : SprNum} (v : Word)
    (h : n.toNat = 268 ∨ n.toNat = 269 ∨ n.toNat = 284 ∨ n.toNat = 285) : s.writeSpr n v = none := by
  have hn := names_sprClass n
  unfold State.writeSpr
  cases hk : sprClass n <;> simp only [hk, SprClass.Names] at hn
  case tbl | tbu | tbWrite => rfl
  all_goals omega

theorem execMtspr_of_refused {s : State} {rs : GprNum} {n : SprNum} (z31 : BitVec 1)
    (h : s.writeSpr n (s.gpr rs) = none) :
    execMtspr rs n z31 s = reportInvalid .mtspr (encode (.mtspr rs n z31)) s := by
  unfold execMtspr
  rw [h]

/-- The five registers after a write: the named one holds the value, the others what they held. -/
theorem writeSpr_registers {s u : State} {n : SprNum} {v : Word} (h : s.writeSpr n v = some u) :
    u = { s with
      xer := if n.toNat = 1 then v else s.xer
      lr := if n.toNat = 8 then v else s.lr
      ctr := if n.toNat = 9 then v else s.ctr
      srr0 := if n.toNat = 26 then v else s.srr0
      srr1 := if n.toNat = 27 then v else s.srr1
      sprs := u.sprs } := by
  have hn := names_sprClass n
  unfold State.writeSpr at h
  cases hk : sprClass n <;> simp only [hk, SprClass.Names] at hn h <;> cases h
  all_goals simp [hn, State.setSprCell]

theorem sprCell_of_writeSpr_other {s u : State} {m n : SprNum} {v : Word} (h : s.writeSpr n v = some u) (hm : m ≠ n) :
    u.sprCell m = s.sprCell m := by
  rcases writeSpr_cases h with rfl | rfl | rfl | rfl | rfl | ⟨-, rfl⟩
  case inr.inr.inr.inr.inr => rw [sprCell_setSprCell, if_neg hm]
  all_goals rfl

/-- Every other number reads as before: each of the five registers has one number only, and each cell its own place. -/
theorem readSpr_of_writeSpr_other {s u : State} {m n : SprNum} {v : Word} (h : s.writeSpr n v = some u) (hmn : m ≠ n) :
    u.readSpr m = s.readSpr m := by
  have hreg := writeSpr_registers h
  have hne : n.toNat ≠ m.toNat := fun e => hmn (BitVec.eq_of_toNat_eq e.symm)
  have hm := names_sprClass m
  unfold State.readSpr
  cases hk : sprClass m <;> simp only [hk, SprClass.Names] at hm
  case xer | lr | ctr | srr0 | srr1 =>
    rw [hm] at hne
    rw [hreg]
    exact congrArg some (if_neg hne)
  case tbl | tbu => rw [hreg]; rfl
  case tbWrite => rfl
  case cell => exact congrArg some (sprCell_of_writeSpr_other h hmn)

end Sys2Proof.Machine

namespace Sys2Proof

section

open Machine

/-! ## O38, O39: the moves -/

/-- Settles O38: `readSpr_eq` says what each number reads, and `mftb` reads only the two of the time base. -/
theorem moveFrom : Obligations.MoveFrom := by
  intro rd n z31 z11 z16 s
  refine ⟨?_, ?_, ⟨_, rfl, completed_setGpr_only ..⟩, ⟨_, rfl, completed_setGpr_only ..⟩⟩
  · have hread := readSpr_eq s n
    rw [tbl_eq, tbu_eq] at hread
    by_cases hrefused : n.toNat = 284 ∨ n.toNat = 285
    · rw [if_pos hrefused] at hread
      exact ⟨_, execMfspr_of_refused rd z31 hread, (if_pos hrefused).mpr rfl⟩
    · rw [if_neg hrefused] at hread
      exact ⟨_, execMfspr_of_readSpr rd z31 hread, (if_neg hrefused).mpr (completed_setGpr_only ..)⟩
  · have hexec := execMftb_eq rd n z31 s
    rw [tbl_eq, tbu_eq] at hexec
    split_ifs at hexec with hl hu
    · exact ⟨_, hexec, (if_pos hl).mpr (completed_setGpr_only ..)⟩
    · exact ⟨_, hexec, (if_neg hl).mpr ((if_pos hu).mpr (completed_setGpr_only ..))⟩
    · exact ⟨_, hexec, (if_neg hl).mpr ((if_neg hu).mpr rfl)⟩

/-- Settles O39: a write that is accepted changes one register or one cell, which reads back, and no other number's. -/
theorem moveTo : Obligations.MoveTo := by
  intro rs n z31 z11 z16 s
  refine ⟨?_, _, rfl, rfl, fun _ => rfl⟩
  by_cases hrefused : n.toNat = 268 ∨ n.toNat = 269 ∨ n.toNat = 284 ∨ n.toNat = 285
  · exact ⟨_, execMtspr_of_refused z31 (writeSpr_refuses s _ hrefused), (if_pos hrefused).mpr rfl⟩
  · obtain ⟨h1, h2, h3, h4⟩ : n.toNat ≠ 268 ∧ n.toNat ≠ 269 ∧ n.toNat ≠ 284 ∧ n.toNat ≠ 285 := by omega
    obtain ⟨u, hu⟩ := writeSpr_accepts s (s.gpr rs) h1 h2 h3 h4
    have hreads : ∀ m, u.completed.readSpr m = if m = n then some (s.gpr rs) else s.readSpr m := fun m => by
      change u.readSpr m = _
      split_ifs with hm
      · rw [hm, readSpr_of_writeSpr hu]
      · exact readSpr_of_writeSpr_other hu hm
    have himage : sameImage s u.completed := fun a => by
      rw [writeSpr_fields hu]
      rfl
    exact ⟨_, execMtspr_of_writeSpr z31 hu,
      (if_neg hrefused).mpr ⟨congrArg State.completed (writeSpr_registers hu), hreads, himage⟩⟩

end

end Sys2Proof

/-! PROOFS of the family 45_floating_point_arithmetic.md, first part: what the arithmetic delivers (R341 to R371). A pattern is a sign
and 63 bits, and its magnitude is strictly increasing in these (`magnitudeValue_strictMono`); so the classes, the order and the
neighbours of a pattern are facts about natural numbers. The operations are then said once for operands that are no NaN and once for
finite ones. -/

namespace Sys2Proof.Machine

/-! ## A pattern as a sign and 63 bits (R341) -/

/-- The exponent and the fraction together, as one number: the pattern without its sign. -/
def magnitudeBits (d : DWord) : Nat := d.toNat % 2 ^ 63

/-- The pattern of a sign and 63 bits. -/
def signed (neg : Bool) (n : Nat) : DWord := signBit neg ||| BitVec.ofNat 64 n

theorem signOf_eq_decide (d : DWord) : signOf d = decide (2 ^ 63 ≤ d.toNat) := by
  rw [signOf, ← BitVec.msb_eq_getMsbD_zero, BitVec.msb_eq_decide]

theorem toNat_eq_magnitudeBits (d : DWord) : d.toNat = (if signOf d then 2 ^ 63 else 0) + magnitudeBits d := by
  have hd := d.isLt
  rw [signOf_eq_decide, magnitudeBits]
  by_cases h : 2 ^ 63 ≤ d.toNat
  · rw [decide_eq_true h, if_pos rfl]
    omega
  · rw [decide_eq_false h, if_neg Bool.false_ne_true]
    omega

theorem expOf_eq_div (d : DWord) : expOf d = magnitudeBits d / 2 ^ 52 := by
  rw [expOf, BitVec.extractLsb'_toNat, Nat.shiftRight_eq_div_pow, magnitudeBits]
  omega

theorem fracOf_eq_mod (d : DWord) : fracOf d = magnitudeBits d % 2 ^ 52 := by
  rw [fracOf, BitVec.extractLsb'_toNat, Nat.shiftRight_zero, magnitudeBits]
  omega

section

variable {n : Nat} (neg : Bool) (hn : n < 2 ^ 63)

include hn

theorem toNat_signed : (signed neg n).toNat = (if neg then 2 ^ 63 else 0) + n := by
  have hof : (BitVec.ofNat 64 n).toNat = n := by rw [BitVec.toNat_ofNat, Nat.mod_eq_of_lt (by omega)]
  rw [signed, BitVec.toNat_or, hof]
  cases neg with
  | false => simp [signBit]
  | true => simpa [signBit] using (Nat.two_pow_add_eq_or_of_lt hn 1).symm

theorem magnitudeBits_signed : magnitudeBits (signed neg n) = n := by
  rw [magnitudeBits, toNat_signed neg hn]
  cases neg <;> simp <;> omega

theorem signOf_signed : signOf (signed neg n) = neg := by
  rw [signOf_eq_decide, toNat_signed neg hn]
  cases neg <;> simp
  omega

end

theorem magnitudeBits_lt (d : DWord) : magnitudeBits d < 2 ^ 63 := Nat.mod_lt _ (Nat.two_pow_pos 63)

theorem eq_of_signOf_magnitudeBits {d d' : DWord} (hs : signOf d = signOf d') (hm : magnitudeBits d = magnitudeBits d') :
    d = d' := by
  apply BitVec.eq_of_toNat_eq
  rw [toNat_eq_magnitudeBits d, toNat_eq_magnitudeBits d', hs, hm]

theorem signed_magnitudeBits (d : DWord) : signed (signOf d) (magnitudeBits d) = d :=
  eq_of_signOf_magnitudeBits (signOf_signed _ (magnitudeBits_lt d)) (magnitudeBits_signed _ (magnitudeBits_lt d))

/-! ## The classes, by the 63 bits (R341) -/

theorem isFinite_iff (d : DWord) : isFinite d = true ↔ magnitudeBits d < 2047 * 2 ^ 52 := by
  have hd := magnitudeBits_lt d
  have hexp : (d.extractLsb' 52 11).toNat = magnitudeBits d / 2 ^ 52 := expOf_eq_div d
  rw [isFinite, hexp, bne_iff_ne]
  omega

theorem isFinite_eq_false_iff (d : DWord) : isFinite d = false ↔ 2047 * 2 ^ 52 ≤ magnitudeBits d := by
  rw [← Bool.not_eq_true, isFinite_iff, Nat.not_lt]

theorem isNaN_iff (d : DWord) : isNaN d = true ↔ 2047 * 2 ^ 52 < magnitudeBits d := by
  have hd := magnitudeBits_lt d
  rw [isNaN, expOf_eq_div, fracOf_eq_mod, Bool.and_eq_true, beq_iff_eq, bne_iff_ne]
  omega

theorem isInf_iff (d : DWord) : isInf d = true ↔ magnitudeBits d = 2047 * 2 ^ 52 := by
  have hd := magnitudeBits_lt d
  rw [isInf, expOf_eq_div, fracOf_eq_mod, Bool.and_eq_true, beq_iff_eq, beq_iff_eq]
  omega

theorem isZero_iff (d : DWord) : isZero d = true ↔ magnitudeBits d = 0 := by
  rw [isZero, expOf_eq_div, fracOf_eq_mod, Bool.and_eq_true, beq_iff_eq, beq_iff_eq]
  omega

theorem isNaN_of_isFinite {d : DWord} (h : isFinite d = true) : isNaN d = false := by
  rw [← Bool.not_eq_true, isNaN_iff]
  rw [isFinite_iff] at h
  omega

theorem isInf_of_isFinite {d : DWord} (h : isFinite d = true) : isInf d = false := by
  rw [← Bool.not_eq_true, isInf_iff]
  rw [isFinite_iff] at h
  omega

theorem isZero_of_isInf {d : DWord} (h : isInf d = true) : isZero d = false := by
  rw [← Bool.not_eq_true, isZero_iff]
  rw [isInf_iff] at h
  omega

/-- Of the patterns that are no NaN, the infinities are those that are not finite. -/
theorem isInf_eq_not_isFinite {d : DWord} (h : isNaN d = false) : isInf d = !isFinite d := by
  rw [← Bool.not_eq_true, isNaN_iff] at h
  rw [Bool.eq_iff_iff, isInf_iff, Bool.not_eq_true', isFinite_eq_false_iff]
  omega

theorem infinity_eq_signed (neg : Bool) : infinity neg = signed neg (2047 * 2 ^ 52) := by cases neg <;> rfl

theorem zero_eq_signed (neg : Bool) : zero neg = signed neg 0 := by cases neg <;> rfl

theorem eq_infinity_of_isInf {d : DWord} (h : isInf d = true) : d = infinity (signOf d) := by
  rw [infinity_eq_signed, ← (isInf_iff d).mp h, signed_magnitudeBits]

theorem eq_zero_of_isZero {d : DWord} (h : isZero d = true) : d = zero (signOf d) := by
  rw [zero_eq_signed, ← (isZero_iff d).mp h, signed_magnitudeBits]

/-- The quiet bit lies in the fraction. -/
theorem isNaN_of_quietBit {d : DWord} (hexp : expOf d = 2047) (hquiet : d.getLsbD 51 = true) : isNaN d = true := by
  have hbit : (d.extractLsb' 0 52).getLsbD 51 = true := by
    rw [BitVec.getLsbD_extractLsb', hquiet]
    rfl
  have hfrac : fracOf d ≠ 0 := fun h0 => by
    rw [BitVec.eq_of_toNat_eq (y := 0) h0] at hbit
    cases hbit
  rw [isNaN, hexp, beq_self_eq_true, Bool.true_and, bne_iff_ne]
  exact hfrac

theorem expOf_of_isNaN {d : DWord} (h : isNaN d = true) : expOf d = 2047 := by
  rw [isNaN, Bool.and_eq_true, beq_iff_eq] at h
  exact h.1

theorem expOf_quiet (d : DWord) : expOf (quiet d) = expOf d := by
  rw [expOf, expOf, quiet, BitVec.extractLsb'_or]
  exact congrArg BitVec.toNat BitVec.or_zero

theorem getLsbD_quiet (d : DWord) : (quiet d).getLsbD 51 = true := by
  rw [quiet, BitVec.getLsbD_or]
  exact Bool.or_true _

theorem isNaN_quiet {d : DWord} (h : isNaN d = true) : isNaN (quiet d) = true :=
  isNaN_of_quietBit ((expOf_quiet d).trans (expOf_of_isNaN h)) (getLsbD_quiet d)

/-- The cut of `frsp` keeps the exponent and the quiet bit (R371). -/
theorem isNaN_quiet_cut {d : DWord} (h : isNaN d = true) : isNaN (quiet d &&& 0xFFFFFFFFE0000000) = true := by
  have hexp : expOf (quiet d &&& 0xFFFFFFFFE0000000) = expOf (quiet d) := by
    rw [expOf, expOf, BitVec.extractLsb'_and]
    exact congrArg BitVec.toNat BitVec.and_allOnes
  refine isNaN_of_quietBit (hexp.trans ((expOf_quiet d).trans (expOf_of_isNaN h))) ?_
  rw [BitVec.getLsbD_and, getLsbD_quiet]
  rfl

/-! ## The sign inverted -/

theorem signOf_negate (d : DWord) : signOf (negate d) = !signOf d := by
  rw [signOf, signOf, negate, BitVec.getMsbD_xor]
  exact Bool.xor_true _

theorem magnitudeBits_negate (d : DWord) : magnitudeBits (negate d) = magnitudeBits d := by
  rw [magnitudeBits, magnitudeBits, negate, BitVec.toNat_xor, Nat.xor_mod_two_pow]
  exact Nat.xor_zero _

theorem negate_signed (neg : Bool) {n : Nat} (hn : n < 2 ^ 63) : negate (signed neg n) = signed (!neg) n :=
  eq_of_signOf_magnitudeBits (by rw [signOf_negate, signOf_signed neg hn, signOf_signed _ hn])
    (by rw [magnitudeBits_negate, magnitudeBits_signed neg hn, magnitudeBits_signed _ hn])

/-! ## The value as a function of the 63 bits: a significand on a lattice of powers of two -/

/-- The magnitude that 63 bits stand for, as if the largest exponent were one like the others. -/
def magnitudeValue (n : Nat) : ℚ :=
  ((if n / 2 ^ 52 = 0 then n % 2 ^ 52 else 2 ^ 52 + n % 2 ^ 52 : Nat) : ℚ) *
    2 ^ (if n / 2 ^ 52 = 0 then -1074 else ((n / 2 ^ 52 : Nat) : Int) - 1075)

theorem valueOf_eq_magnitudeValue (d : DWord) :
    valueOf d = (if signOf d then -1 else 1) * magnitudeValue (magnitudeBits d) := by
  rw [valueOf_parts, magOf, scaleOf, expOf_eq_div, fracOf_eq_mod]
  rfl

/-- A significand of up to 53 bits at weight `2 ^ (t - 1074)`: where `t` is not 0 it has all of them, and 2^53 itself is the first of
the next binade. -/
theorem magnitudeValue_lattice {t N : Nat} (hN : N ≤ 2 ^ 53) (ht : t = 0 ∨ 2 ^ 52 ≤ N) :
    magnitudeValue (t * 2 ^ 52 + N) = N * 2 ^ ((t : Int) - 1074) := by
  have h2 : (2 : ℚ) ≠ 0 := by norm_num
  rcases Nat.lt_or_ge N (2 ^ 52) with hlt | hge
  · obtain rfl : t = 0 := by omega
    rw [magnitudeValue, if_pos (by omega), if_pos (by omega), Nat.mod_eq_of_lt (by omega)]
    norm_num
  · rw [magnitudeValue, if_neg (by omega), if_neg (by omega)]
    rcases Nat.lt_or_ge N (2 ^ 53) with hlt | hge'
    · have hdiv : (t * 2 ^ 52 + N) / 2 ^ 52 = t + 1 := by omega
      have hmod : 2 ^ 52 + (t * 2 ^ 52 + N) % 2 ^ 52 = N := by omega
      rw [hdiv, hmod]
      congr 2
      omega
    · have hdiv : (t * 2 ^ 52 + N) / 2 ^ 52 = t + 2 := by omega
      have hmod : 2 ^ 52 + (t * 2 ^ 52 + N) % 2 ^ 52 = 2 ^ 52 := by omega
      have hexp : ((t + 2 : Nat) : Int) - 1075 = ((t : Int) - 1074) + 1 := by omega
      rw [hdiv, hmod, hexp, zpow_add₀ h2, le_antisymm hN hge']
      push_cast
      ring

theorem exists_lattice (n : Nat) : ∃ t N, n = t * 2 ^ 52 + N ∧ N < 2 ^ 53 ∧ (t = 0 ∨ 2 ^ 52 ≤ N) :=
  ⟨n / 2 ^ 52 - 1, n - (n / 2 ^ 52 - 1) * 2 ^ 52, by omega, by omega, by omega⟩

theorem magnitudeValue_strictMono : StrictMono magnitudeValue := by
  refine strictMono_nat_of_lt_succ fun n => ?_
  obtain ⟨t, N, rfl, hN, ht⟩ := exists_lattice n
  rw [Nat.add_assoc, magnitudeValue_lattice hN.le ht, magnitudeValue_lattice (by omega) (by omega)]
  have : (N : ℚ) < (N + 1 : Nat) := by exact_mod_cast Nat.lt_succ_self N
  gcongr

@[simp] theorem magnitudeValue_zero : magnitudeValue 0 = 0 := by simp [magnitudeValue]

theorem magnitudeValue_nonneg (n : Nat) : 0 ≤ magnitudeValue n := by
  rw [← magnitudeValue_zero]
  exact magnitudeValue_strictMono.monotone (Nat.zero_le n)

theorem abs_valueOf (d : DWord) : |valueOf d| = magnitudeValue (magnitudeBits d) := by
  rw [valueOf_eq_magnitudeValue, abs_mul, abs_of_nonneg (magnitudeValue_nonneg _)]
  cases signOf d <;> simp

theorem valueOf_eq_zero_iff (d : DWord) : valueOf d = 0 ↔ magnitudeBits d = 0 := by
  rw [← abs_eq_zero, abs_valueOf, ← magnitudeValue_zero, magnitudeValue_strictMono.injective.eq_iff]

/-- The zeros of the model are those of the value. -/
theorem isZero_iff_valueOf (d : DWord) : isZero d = true ↔ valueOf d = 0 := by
  rw [isZero_iff, valueOf_eq_zero_iff]

/-- A pattern is known by its sign and its magnitude. -/
theorem eq_signed_of_value {d : DWord} {neg : Bool} {t N : Nat} (hs : d.getMsbD 0 = neg) (hN : N ≤ 2 ^ 53)
    (ht : t = 0 ∨ 2 ^ 52 ≤ N) (hv : |valueOf d| = N * 2 ^ ((t : Int) - 1074)) : d = signed neg (t * 2 ^ 52 + N) := by
  rw [abs_valueOf, ← magnitudeValue_lattice hN ht] at hv
  rw [← magnitudeValue_strictMono.injective hv, ← hs]
  exact (signed_magnitudeBits d).symm

end Sys2Proof.Machine

namespace Sys2Proof.Machine

/-! ## NaN operands (R346 (a), (b)) -/

/-- The NaN rule where it applies. -/
theorem withNaNs_of_nan {ops : List DWord} {r : FpResult} (h : ∃ d ∈ ops, isNaN d = true) :
    isNaNResult ops (withNaNs ops r) := by
  obtain ⟨d, hd⟩ := Option.isSome_iff_exists.mp (List.find?_isSome.mpr h)
  refine ⟨d, hd, ?_⟩
  rw [withNaNs, firstNaN, hd]
  rfl

/-- The NaN rule where it does not. -/
theorem withNaNs_of_not_nan {ops : List DWord} {r : FpResult} (h : ∀ d ∈ ops, isNaN d = false) : withNaNs ops r = r := by
  have hnone : ops.find? isNaN = none := List.find?_eq_none.mpr fun d hd => by simp [h d hd]
  rw [withNaNs, firstNaN, hnone]
  rfl

theorem negateResult_of_nan {r : FpResult} (h : isNaN r.value = true) : negateResult r = r := if_pos h

theorem negateResult_of_not_nan {r : FpResult} (h : isNaN r.value = false) :
    negateResult r = { r with value := negate r.value } := by
  rw [negateResult, h]
  rfl

theorem isNaN_of_isNaNResult {ops : List DWord} {r : FpResult} (h : isNaNResult ops r) : isNaN r.value = true := by
  obtain ⟨d, hd, rfl⟩ := h
  exact isNaN_quiet (List.find?_some hd)

/-! ## The operations on operands of which none is a NaN, by their classes -/

section

variable (fmt : FpFormat) (rn : BitVec 2) (flip : Bool) {a b c : DWord}

theorem fpAdd_of_not_nan (ha : isNaN a = false) (hb : isNaN b = false) :
    fpAdd fmt rn flip a b =
      if isInf a then
        if isInf b && (signOf a ^^ (signOf b ^^ flip)) then invalidResult fpVXISI else exactResult (infinity (signOf a))
      else if isInf b then exactResult (infinity (signOf b ^^ flip))
      else roundSum fmt rn (signOf a) (magOf a) (scaleOf a) (signOf b ^^ flip) (magOf b) (scaleOf b) := by
  refine (withNaNs_of_not_nan (by simp [ha, hb])).trans ?_
  cases hinf : isInf a
  · rfl
  · simp only [← eq_infinity_of_isInf hinf]

theorem fpMul_of_not_nan (ha : isNaN a = false) (hc : isNaN c = false) :
    fpMul fmt rn a c =
      if (isInf a && isZero c) || (isZero a && isInf c) then invalidResult fpVXIMZ
      else if isInf a || isInf c then exactResult (infinity (signOf a ^^ signOf c))
      else if isZero a || isZero c then exactResult (zero (signOf a ^^ signOf c))
      else roundTo fmt rn (signOf a ^^ signOf c) (magOf a * magOf c) 1 (scaleOf a + scaleOf c) :=
  withNaNs_of_not_nan (by simp [ha, hc])

theorem fpDiv_of_not_nan (ha : isNaN a = false) (hb : isNaN b = false) :
    fpDiv fmt rn a b =
      if isInf a && isInf b then invalidResult fpVXIDI
      else if isZero a && isZero b then invalidResult fpVXZDZ
      else if isInf a then exactResult (infinity (signOf a ^^ signOf b))
      else if isInf b then exactResult (zero (signOf a ^^ signOf b))
      else if isZero b then { value := infinity (signOf a ^^ signOf b), flags := fpZX }
      else if isZero a then exactResult (zero (signOf a ^^ signOf b))
      else roundTo fmt rn (signOf a ^^ signOf b) (magOf a) (magOf b) (scaleOf a - scaleOf b) :=
  withNaNs_of_not_nan (by simp [ha, hb])

theorem fpMulAdd_of_not_nan (ha : isNaN a = false) (hb : isNaN b = false) (hc : isNaN c = false) :
    fpMulAdd fmt rn flip a c b =
      if (isInf a && isZero c) || (isZero a && isInf c) then invalidResult fpVXIMZ
      else if isInf a || isInf c then
        if isInf b && ((signOf a ^^ signOf c) ^^ (signOf b ^^ flip)) then invalidResult fpVXISI
        else exactResult (infinity (signOf a ^^ signOf c))
      else if isInf b then exactResult (infinity (signOf b ^^ flip))
      else roundSum fmt rn (signOf a ^^ signOf c) (magOf a * magOf c) (scaleOf a + scaleOf c) (signOf b ^^ flip) (magOf b)
        (scaleOf b) :=
  withNaNs_of_not_nan (by simp [ha, hb, hc])

theorem fpRoundToSingle_of_not_nan (hb : isNaN b = false) :
    fpRoundToSingle rn b =
      if isInf b then exactResult (infinity (signOf b)) else if isZero b then exactResult (zero (signOf b))
      else roundTo .single rn (signOf b) (magOf b) 1 (scaleOf b) := by
  unfold fpRoundToSingle
  rw [hb]
  cases hinf : isInf b
  · cases hzero : isZero b
    · rfl
    · rw [← eq_zero_of_isZero hzero]
      rfl
  · rw [← eq_infinity_of_isInf hinf]
    rfl

theorem fpRes_of_not_nan (mode : Estimate) (hb : isNaN b = false) :
    fpRes mode rn b =
      if isZero b then { value := infinity (signOf b), flags := fpZX }
      else if isInf b then exactResult (zero (signOf b))
      else
        { value := fresValue mode rn b
          flags := (roundTo .single rn (signOf b) 1 (magOf b) (-(scaleOf b))).flags &&& (fpOX ||| fpUX) } :=
  withNaNs_of_not_nan (by simp [hb])

theorem fpRsqrte_of_not_nan (mode : Estimate) (hb : isNaN b = false) :
    fpRsqrte mode b =
      if isZero b then { value := infinity (signOf b), flags := fpZX }
      else if signOf b then invalidResult fpVXSQRT
      else if isInf b then exactResult (zero false)
      else exactResult (frsqrteValue mode b) :=
  withNaNs_of_not_nan (by simp [hb])

end

/-! ## The exact special values, in the words of the statements -/

theorem infinity_eq (neg : Bool) : infinity neg = if neg then 0xFFF0000000000000 else 0x7FF0000000000000 := by
  cases neg <;> rfl

theorem isExactInfinity_infinity (neg : Bool) : isExactInfinity neg (exactResult (infinity neg)) := by
  rw [isExactInfinity, ← infinity_eq]
  rfl

theorem isExactZero_zero (neg : Bool) : isExactZero neg (exactResult (zero neg)) := rfl

theorem isInvalid_invalidResult (flag : Word) : isInvalid flag (invalidResult flag) := rfl

/-! ## Finite operands: sums, products and quotients as exact rationals (R343, R347) -/

/-- The exact value of a sign, a significand and a power of two. -/
def signedValue (neg : Bool) (m : Nat) (e : Int) : ℚ := (if neg then -1 else 1) * ((m : ℚ) * 2 ^ e)

theorem abs_valueOf_eq_magOf (d : DWord) : |valueOf d| = (magOf d : ℚ) * 2 ^ scaleOf d := by
  rw [valueOf_parts, abs_mul, abs_of_nonneg (by positivity : (0 : ℚ) ≤ (magOf d : ℚ) * 2 ^ scaleOf d)]
  cases signOf d <;> simp

theorem valueOf_eq_signedValue (d : DWord) : valueOf d = signedValue (signOf d) (magOf d) (scaleOf d) := valueOf_parts d

section

variable (neg neg' : Bool) (m m' : Nat) (e e' : Int)

theorem signedValue_mul : signedValue neg m e * signedValue neg' m' e' = signedValue (neg ^^ neg') (m * m') (e + e') := by
  simp only [signedValue, zpow_add₀ (two_ne_zero' ℚ)]
  cases neg <;> cases neg' <;> simp <;> ring

theorem signedValue_div :
    signedValue neg m e / signedValue neg' m' e' = (if neg ^^ neg' then -1 else 1) * ((m : ℚ) / m' * 2 ^ (e - e')) := by
  simp only [signedValue, zpow_sub₀ (two_ne_zero' ℚ)]
  cases neg <;> cases neg' <;> simp [neg_div, div_neg] <;> ring

theorem signedValue_flip : signedValue (neg ^^ neg') m e = if neg' then -signedValue neg m e else signedValue neg m e := by
  cases neg <;> cases neg' <;> simp [signedValue]

theorem roundTo_signedValue (fmt : FpFormat) (rn : BitVec 2) (hm : 0 < m) :
    RoundsTo fmt rn (signedValue neg m e) (roundTo fmt rn neg m 1 e) := by
  have h := roundTo_roundsTo fmt rn neg hm one_pos e
  rwa [Nat.cast_one, div_one] at h

/-- The significand brought to a lower power of two, with its sign: the terms of `roundSum`. -/
theorem signedValue_eq_int_mul (h : e' ≤ e) :
    signedValue neg m e =
      ((if neg then -((m * pow2Up (e - e') : Nat) : Int) else ((m * pow2Up (e - e') : Nat) : Int) : Int) : ℚ) * 2 ^ e' := by
  have hup : ((pow2Up (e - e') : Nat) : ℚ) = 2 ^ (e - e') := by
    rw [two_zpow_split (e - e'), pow2Down, Int.toNat_of_nonpos (by omega)]
    simp
  have hpow : (2 : ℚ) ^ e = 2 ^ (e - e') * 2 ^ e' := by
    rw [← zpow_add₀ (two_ne_zero' ℚ)]
    congr 1
    ring
  rw [signedValue, hpow, ← hup]
  cases neg <;> push_cast <;> simp <;> ring

end

/-- The rounding of a non-zero multiple of a power of two. -/
theorem roundTo_int_mul (fmt : FpFormat) (rn : BitVec 2) {i : Int} (hi : i ≠ 0) (e : Int) :
    RoundsTo fmt rn ((i : ℚ) * 2 ^ e) (roundTo fmt rn (decide (i < 0)) i.natAbs 1 e) := by
  have hvalue : (i : ℚ) * 2 ^ e = signedValue (decide (i < 0)) i.natAbs e := by
    have habs : ((i.natAbs : Nat) : ℚ) = |(i : ℚ)| := by rw [Nat.cast_natAbs, Int.cast_abs]
    rw [signedValue, habs]
    rcases lt_or_ge i 0 with h | h
    · have hq : (i : ℚ) < 0 := by exact_mod_cast h
      simp [h, abs_of_neg hq]
    · have hq : (0 : ℚ) ≤ i := by exact_mod_cast h
      simp [not_lt.mpr h, abs_of_nonneg hq]
  rw [hvalue]
  exact roundTo_signedValue _ _ _ _ _ (Int.natAbs_pos.mpr hi)

/-- R347 and R343: the sum of two signed significands is rounded once, or the zero of the rule's sign. -/
theorem roundSum_spec (fmt : FpFormat) (rn : BitVec 2) (neg neg' : Bool) (m m' : Nat) (e e' : Int) :
    if signedValue neg m e + signedValue neg' m' e' = 0 then
      isExactZero (if neg = neg' then neg' else decide (rn = 3)) (roundSum fmt rn neg m e neg' m' e')
    else RoundsTo fmt rn (signedValue neg m e + signedValue neg' m' e') (roundSum fmt rn neg m e neg' m' e') := by
  rw [signedValue_eq_int_mul neg m e (min e e') (min_le_left e e'),
    signedValue_eq_int_mul neg' m' e' (min e e') (min_le_right e e'), ← add_mul, ← Int.cast_add]
  unfold roundSum
  simp only
  have hup : 0 < pow2Up (e - min e e') := pow2Up_pos _
  have hup' : 0 < pow2Up (e' - min e e') := pow2Up_pos _
  generalize hi : m * pow2Up (e - min e e') = i
  generalize hi' : m' * pow2Up (e' - min e e') = i'
  have hm : m = 0 ↔ i = 0 := by simp [← hi, hup.ne']
  have hm' : m' = 0 ↔ i' = 0 := by simp [← hi', hup'.ne']
  by_cases h0 : (if neg then -(i : Int) else i) + (if neg' then -(i' : Int) else i') = 0
  · rw [if_pos (by rw [h0]; simp), if_pos h0]
    have hsign : (if m = 0 ∧ m' = 0 ∧ neg = neg' then neg else decide (rn = 3)) =
        if neg = neg' then neg' else decide (rn = 3) := by
      by_cases hn : neg = neg'
      · subst hn
        have hzero : i = 0 ∧ i' = 0 := by cases neg <;> simp at h0 <;> omega
        rw [if_pos ⟨hm.mpr hzero.1, hm'.mpr hzero.2, rfl⟩, if_pos rfl]
      · rw [if_neg (fun h => hn h.2.2), if_neg hn]
    rw [hsign]
    exact isExactZero_zero _
  · have hne : (((if neg then -(i : Int) else i) + (if neg' then -(i' : Int) else i') : Int) : ℚ) * 2 ^ min e e' ≠ 0 :=
      mul_ne_zero (by exact_mod_cast h0) (zpow_ne_zero _ (two_ne_zero' ℚ))
    rw [if_neg hne, if_neg h0]
    exact roundTo_int_mul fmt rn h0 _

section

variable (fmt : FpFormat) (rn : BitVec 2) (flip : Bool) {a b c : DWord} (ha : isFinite a = true) (hb : isFinite b = true)
  (hc : isFinite c = true)

theorem isZero_eq_decide (d : DWord) : isZero d = decide (valueOf d = 0) := by
  rw [Bool.eq_iff_iff, isZero_iff_valueOf, decide_eq_true_eq]

theorem magOf_pos {d : DWord} (h : valueOf d ≠ 0) : 0 < magOf d := Nat.pos_of_ne_zero fun h0 => h ((valueOf_eq_zero d).mpr h0)

include ha hb in
theorem fpAdd_of_finite :
    fpAdd fmt rn flip a b =
      roundSum fmt rn (signOf a) (magOf a) (scaleOf a) (signOf b ^^ flip) (magOf b) (scaleOf b) := by
  rw [fpAdd_of_not_nan _ _ _ (isNaN_of_isFinite ha) (isNaN_of_isFinite hb), isInf_of_isFinite ha, isInf_of_isFinite hb]
  rfl

include ha hb hc in
theorem fpMulAdd_of_finite :
    fpMulAdd fmt rn flip a c b =
      roundSum fmt rn (signOf a ^^ signOf c) (magOf a * magOf c) (scaleOf a + scaleOf c) (signOf b ^^ flip) (magOf b)
        (scaleOf b) := by
  rw [fpMulAdd_of_not_nan _ _ _ (isNaN_of_isFinite ha) (isNaN_of_isFinite hb) (isNaN_of_isFinite hc),
    isInf_of_isFinite ha, isInf_of_isFinite hb, isInf_of_isFinite hc]
  cases isZero a <;> cases isZero c <;> rfl

include ha hc in
theorem fpMul_of_finite :
    fpMul fmt rn a c =
      if valueOf a * valueOf c = 0 then exactResult (zero (signOf a ^^ signOf c))
      else roundTo fmt rn (signOf a ^^ signOf c) (magOf a * magOf c) 1 (scaleOf a + scaleOf c) := by
  rw [fpMul_of_not_nan _ _ (isNaN_of_isFinite ha) (isNaN_of_isFinite hc), isInf_of_isFinite ha, isInf_of_isFinite hc]
  simp [isZero_eq_decide]

include ha hb in
theorem fpDiv_of_finite (h0 : valueOf b ≠ 0) :
    fpDiv fmt rn a b =
      if valueOf a = 0 then exactResult (zero (signOf a ^^ signOf b))
      else roundTo fmt rn (signOf a ^^ signOf b) (magOf a) (magOf b) (scaleOf a - scaleOf b) := by
  rw [fpDiv_of_not_nan _ _ (isNaN_of_isFinite ha) (isNaN_of_isFinite hb), isInf_of_isFinite ha, isInf_of_isFinite hb]
  simp [isZero_eq_decide, h0]

include hb in
theorem fpRoundToSingle_of_finite :
    fpRoundToSingle rn b =
      if valueOf b = 0 then exactResult (zero (signOf b)) else roundTo .single rn (signOf b) (magOf b) 1 (scaleOf b) := by
  rw [fpRoundToSingle_of_not_nan _ (isNaN_of_isFinite hb), isInf_of_isFinite hb]
  simp [isZero_eq_decide]

end

/-- The sign bit is the first. -/
theorem getMsbD_negate (d : DWord) {k : Nat} (hk : k < 64) : (negate d).getMsbD k = (d.getMsbD k ^^ decide (k = 0)) := by
  have hmask : (0x8000000000000000 : DWord).getMsbD k = decide (k = 0) := by
    interval_cases k <;> decide
  rw [negate, BitVec.getMsbD_xor, hmask]

end Sys2Proof.Machine

namespace Sys2Proof

section

open Machine

/-! ## O49 to O52: the operations by the classes of their operands -/

/-- Settles O49: the operations begin with the NaN rule, and the negated forms keep the NaN it gives. -/
theorem naNOperands : Obligations.NaNOperands := by
  intro fmt rn flip mode a b c
  refine ⟨fun h => ?_, fun h => ?_, fun h => ?_, fun h => ?_⟩
  · have hops : ∃ d ∈ [a, b], isNaN d = true := by simpa using h
    exact ⟨withNaNs_of_nan hops, withNaNs_of_nan hops⟩
  · exact withNaNs_of_nan (by simpa using h)
  · have hr : isNaNResult [a, b, c] (fpMulAdd fmt rn flip a c b) := withNaNs_of_nan (by simpa using h)
    rw [negateResult_of_nan (isNaN_of_isNaNResult hr)]
    exact ⟨hr, hr⟩
  · have hops : ∃ d ∈ [b], isNaN d = true := ⟨b, List.mem_singleton_self b, h⟩
    refine ⟨withNaNs_of_nan hops, withNaNs_of_nan hops, ?_⟩
    rw [fpRoundToSingle, if_pos h, snanFlag, List.any_cons, List.any_nil, Bool.or_false]
    rfl

/-- Settles O50: sums end in `roundSum`, the others in one rounding of the exact product or quotient. -/
theorem finiteArithmetic : Obligations.FiniteArithmetic := by
  intro fmt rn flip a b c ha hb hc
  have hflip : (if flip then -valueOf b else valueOf b) = signedValue (signOf b ^^ flip) (magOf b) (scaleOf b) := by
    rw [signedValue_flip, valueOf_eq_signedValue]
  have hproduct : valueOf a * valueOf c = signedValue (signOf a ^^ signOf c) (magOf a * magOf c) (scaleOf a + scaleOf c) := by
    rw [← signedValue_mul, valueOf_eq_signedValue, valueOf_eq_signedValue]
  refine ⟨?_, ?_, fun h0 => ?_, ?_, fun h0 => ?_, fun h0 => ?_⟩
  · rw [hflip, fpAdd_of_finite fmt rn flip ha hb, valueOf_eq_signedValue a]
    exact roundSum_spec ..
  · rw [fpMul_of_finite fmt rn ha hc]
    split
    · exact isExactZero_zero _
    · next h =>
      rw [hproduct]
      exact roundTo_signedValue _ _ _ _ _
        (Nat.mul_pos (magOf_pos (left_ne_zero_of_mul h)) (magOf_pos (right_ne_zero_of_mul h)))
  · rw [fpDiv_of_finite fmt rn ha hb h0]
    split
    · exact isExactZero_zero _
    · next h =>
      rw [valueOf_eq_signedValue a, valueOf_eq_signedValue b, signedValue_div]
      exact roundTo_roundsTo _ _ _ (magOf_pos h) (magOf_pos h0) _
  · rw [hflip, hproduct, fpMulAdd_of_finite fmt rn flip ha hb hc]
    exact roundSum_spec ..
  · rw [fpRoundToSingle_of_finite rn hb, if_neg h0, valueOf_eq_signedValue]
    exact roundTo_signedValue _ _ _ _ _ (magOf_pos h0)
  · rw [fpRoundToSingle_of_finite rn hb, if_pos h0]
    exact isExactZero_zero _

/-- Settles O51: each premise, put in terms of the model's classes, selects one branch of its operation. -/
theorem specialValues : Obligations.SpecialValues := by
  intro fmt rn flip a b c ha hb hc
  have hzero (d : DWord) : isFinite d = true ∧ valueOf d = 0 ↔ isZero d = true := by
    rw [isZero_iff_valueOf]
    refine ⟨And.right, fun h => ⟨?_, h⟩⟩
    rw [isFinite_iff, (valueOf_eq_zero_iff d).mp h]
    decide
  have hinf {d : DWord} (hd : isNaN d = false) : isFinite d = false ↔ isInf d = true := by
    rw [isInf_eq_not_isFinite hd, Bool.not_eq_true']
  have hsign (d : DWord) : d.getMsbD 0 = signOf d := rfl
  have hapart {p q : Bool} (h : p ≠ q) : (p ^^ q) = true := Bool.xor_iff_ne.mpr h
  have hagree {i p q : Bool} (h : i = true → p = q) : (i && (p ^^ q)) = false := by
    cases hi : i
    · rfl
    · rw [h hi, Bool.xor_self, Bool.and_false]
  have hproduct {p z q y : Bool} (h : p = true ∧ ¬ z = true ∨ q = true ∧ ¬ y = true) (hpy : p = true → y = false)
      (hqz : q = true → z = false) : (p && z || y && q) = false ∧ (p || q) = true := by
    rcases h with ⟨h1, h2⟩ | ⟨h1, h2⟩
    · simp [h1, h2, hpy h1]
    · simp [h1, h2, hqz h1]
  have hnoInf {d : DWord} (h : isZero d = true) : isInf d = false := by
    rw [← Bool.not_eq_true]
    intro hi
    rw [isZero_of_isInf hi] at h
    cases h
  simp only [hzero, hinf ha, hinf hb, hinf hc, hsign, ← infinity_eq]
  rw [fpAdd_of_not_nan _ _ _ ha hb, fpMul_of_not_nan _ _ ha hc, fpDiv_of_not_nan _ _ ha hb,
    fpMulAdd_of_not_nan _ _ _ ha hb hc, fpRoundToSingle_of_not_nan _ hb]
  refine ⟨fun h1 h2 h3 => ?_, fun h1 h2 => ?_, fun h1 h2 => ?_, fun h => ?_, fun h => ?_, fun h h2 h3 => ?_, fun h h2 => ?_,
    fun h1 h2 h3 => ?_, fun h1 h2 => ?_, fun h1 h2 => ?_, fun h1 h2 => ?_, fun h1 h2 => ?_, fun h1 h2 h3 => ?_, fun h1 => ?_⟩
  · rw [if_pos h1, h2, hapart h3]
    exact isInvalid_invalidResult _
  · rw [if_pos h1, hagree h2]
    exact isExactInfinity_infinity _
  · rw [if_neg h1, if_pos h2]
    exact isExactInfinity_infinity _
  · have hcond : (isInf a && isZero c || isZero a && isInf c) = true := by simpa using h
    rw [if_pos hcond, if_pos hcond]
    exact ⟨isInvalid_invalidResult _, isInvalid_invalidResult _⟩
  · obtain ⟨hvalid, hany⟩ := hproduct h isZero_of_isInf isZero_of_isInf
    rw [hvalid, hany]
    exact isExactInfinity_infinity _
  · obtain ⟨hvalid, hany⟩ := hproduct h isZero_of_isInf isZero_of_isInf
    rw [hvalid, hany, h2, hapart h3]
    exact isInvalid_invalidResult _
  · obtain ⟨hvalid, hany⟩ := hproduct h isZero_of_isInf isZero_of_isInf
    rw [hvalid, hany, hagree h2]
    exact isExactInfinity_infinity _
  · simp only [h1, h2, h3, Bool.false_and, Bool.and_false, Bool.or_false]
    exact isExactInfinity_infinity _
  · rw [h1, h2]
    exact isInvalid_invalidResult _
  · rw [hnoInf h1, h1, h2]
    exact isInvalid_invalidResult _
  · simp only [h1, h2, isZero_of_isInf h1, Bool.false_and, Bool.and_false]
    exact isExactInfinity_infinity _
  · simp only [h1, h2, isZero_of_isInf h2, Bool.false_and, Bool.and_false]
    exact isExactZero_zero _
  · simp [h1, h2, h3, hnoInf h3]
  · rw [if_pos h1]
    exact isExactInfinity_infinity _

/-- Settles O52: R365's reading, whatever the fused result is. -/
theorem negatedForms : Obligations.NegatedForms := by
  intro fmt rn flip a b c
  dsimp only
  generalize fpMulAdd fmt rn flip a c b = r
  cases h : isNaN r.value
  · rw [negateResult_of_not_nan h]
    exact ⟨rfl, rfl, rfl, nofun, fun _ k hk => getMsbD_negate r.value hk⟩
  · rw [negateResult_of_nan h]
    exact ⟨rfl, rfl, rfl, fun _ => rfl, nofun⟩

end

end Sys2Proof

/-! PROOFS of the family 45_floating_point_arithmetic.md, second part: how the instructions end (R348 to R352, R376 to R385). The
flags of every operation are exception bits, so the commit is R349's; the class of a result is a range of its 63 bits. -/

namespace Sys2Proof.Machine

/-! ## The flags of every operation are exception bits (R349) -/

/-- No bit of the word is 1 but exception bits. -/
def OnlyExceptions (w : Word) : Prop := w &&& fpExceptionBits = w

section

variable {v w : Word}

theorem OnlyExceptions.isExceptionBit (h : OnlyExceptions w) {k : Nat} (hk : w.getMsbD k = true) : isExceptionBit k = true := by
  rw [← h, BitVec.getMsbD_and, Bool.and_eq_true, getMsbD_fpExceptionBits] at hk
  exact hk.2

theorem OnlyExceptions.or (hv : OnlyExceptions v) (hw : OnlyExceptions w) : OnlyExceptions (v ||| w) := by
  rw [OnlyExceptions, or_and_mask, hv, hw]

theorem OnlyExceptions.ite {p : Prop} [Decidable p] (hv : OnlyExceptions v) (hw : OnlyExceptions w) :
    OnlyExceptions (if p then v else w) := by
  split
  · exact hv
  · exact hw

theorem onlyExceptions_zero : OnlyExceptions 0 := rfl

theorem onlyExceptions_fpZX : OnlyExceptions fpZX := rfl

theorem onlyExceptions_overflow : OnlyExceptions (fpOX ||| fpXX) := rfl

end

theorem snanFlag_onlyExceptions (ops : List DWord) : OnlyExceptions (snanFlag ops) :=
  OnlyExceptions.ite rfl rfl

section

variable (fmt : FpFormat) (rn : BitVec 2)

theorem result_ite_flags {p : Prop} [Decidable p] {r q : FpResult} (hr : OnlyExceptions r.flags) (hq : OnlyExceptions q.flags) :
    OnlyExceptions (if p then r else q).flags := by
  split
  · exact hr
  · exact hq

theorem invalidResult_flags {flag : Word} (h : flag &&& fpExceptionBits = flag) : OnlyExceptions (invalidResult flag).flags := h

theorem exactResult_flags (v : DWord) : OnlyExceptions (exactResult v).flags := onlyExceptions_zero

theorem roundTo_flags (neg : Bool) (num den : Nat) (e : Int) : OnlyExceptions (roundTo fmt rn neg num den e).flags := by
  unfold roundTo
  dsimp only
  split
  · exact onlyExceptions_overflow
  · exact .or (.ite rfl rfl) (.ite rfl rfl)

theorem roundSum_flags (neg neg' : Bool) (m m' : Nat) (e e' : Int) :
    OnlyExceptions (roundSum fmt rn neg m e neg' m' e').flags := by
  unfold roundSum
  exact result_ite_flags (exactResult_flags _) (roundTo_flags ..)

theorem withNaNs_flags (ops : List DWord) {r : FpResult} (h : OnlyExceptions r.flags) :
    OnlyExceptions (withNaNs ops r).flags := by
  unfold withNaNs
  split
  · exact snanFlag_onlyExceptions ops
  · exact h

variable (flip : Bool) (a b c : DWord)

theorem fpAdd_flags : OnlyExceptions (fpAdd fmt rn flip a b).flags :=
  withNaNs_flags _ <| result_ite_flags (result_ite_flags (invalidResult_flags rfl) (exactResult_flags _)) <|
    result_ite_flags (exactResult_flags _) (roundSum_flags ..)

theorem fpMul_flags : OnlyExceptions (fpMul fmt rn a c).flags :=
  withNaNs_flags _ <| result_ite_flags (invalidResult_flags rfl) <| result_ite_flags (exactResult_flags _) <|
    result_ite_flags (exactResult_flags _) (roundTo_flags ..)

theorem fpDiv_flags : OnlyExceptions (fpDiv fmt rn a b).flags :=
  withNaNs_flags _ <| result_ite_flags (invalidResult_flags rfl) <|
    result_ite_flags (invalidResult_flags rfl) <| result_ite_flags (exactResult_flags _) <|
    result_ite_flags (exactResult_flags _) <| result_ite_flags onlyExceptions_fpZX <|
    result_ite_flags (exactResult_flags _) (roundTo_flags ..)

theorem fpMulAdd_flags : OnlyExceptions (fpMulAdd fmt rn flip a c b).flags :=
  withNaNs_flags _ <| result_ite_flags (invalidResult_flags rfl) <|
    result_ite_flags (result_ite_flags (invalidResult_flags rfl) (exactResult_flags _)) <|
    result_ite_flags (exactResult_flags _) (roundSum_flags ..)

theorem negateResult_flags {r : FpResult} (h : OnlyExceptions r.flags) : OnlyExceptions (negateResult r).flags :=
  result_ite_flags h h

theorem fpRoundToSingle_flags : OnlyExceptions (fpRoundToSingle rn b).flags :=
  result_ite_flags (snanFlag_onlyExceptions _) <| result_ite_flags (exactResult_flags _) (roundTo_flags ..)

theorem fpRes_flags (mode : Estimate) : OnlyExceptions (fpRes mode rn b).flags :=
  withNaNs_flags _ <| result_ite_flags onlyExceptions_fpZX <| result_ite_flags (exactResult_flags _) <|
    (BitVec.and_assoc ..).trans rfl

theorem fpRsqrte_flags (mode : Estimate) : OnlyExceptions (fpRsqrte mode b).flags :=
  withNaNs_flags _ <| result_ite_flags onlyExceptions_fpZX <|
    result_ite_flags (invalidResult_flags rfl) <| result_ite_flags (exactResult_flags _) (exactResult_flags _)

end

/-! ## The nineteen instructions (R352) -/

section

variable {i : Instr} {s : State} {fmt : FpFormat} {frd : FprNum} {r : FpResult} {rc : Bool}

theorem exec_of_arithForm (h : arithForm i s = some (fmt, frd, r, rc)) : exec i s = finishArith fmt frd r rc s := by
  cases i with
  | fadd | fadds | fsub | fsubs | fmul | fmuls | fdiv | fdivs => cases h; rfl
  | fmadd | fmadds | fmsub | fmsubs | fnmadd | fnmadds | fnmsub | fnmsubs => cases h; rfl
  | fres | frsqrte | frsp => cases h; rfl
  | _ => cases h

theorem flags_of_arithForm (h : arithForm i s = some (fmt, frd, r, rc)) : OnlyExceptions r.flags := by
  cases i with
  | fadd | fadds | fsub | fsubs => cases h; exact fpAdd_flags ..
  | fmul | fmuls => cases h; exact fpMul_flags ..
  | fdiv | fdivs => cases h; exact fpDiv_flags ..
  | fmadd | fmadds | fmsub | fmsubs => cases h; exact fpMulAdd_flags ..
  | fnmadd | fnmadds | fnmsub | fnmsubs => cases h; exact negateResult_flags (fpMulAdd_flags ..)
  | fres => cases h; exact fpRes_flags ..
  | frsqrte => cases h; exact fpRsqrte_flags ..
  | frsp => cases h; exact fpRoundToSingle_flags ..
  | _ => cases h

/-- Of FPSCR, the result depends on the rounding mode alone (R351). -/
theorem arithForm_setFpscr (i : Instr) (s : State) {f : Word} (h : roundingMode f = roundingMode s.fpscr) :
    arithForm i { s with fpscr := f } = arithForm i s := by
  have hfpr (x : FprNum) : State.fpr { s with fpscr := f } x = s.fpr x := rfl
  cases i with
  | _ => simp only [arithForm, h, hfpr]

theorem finishArith_fprs {t : State} (h : finishArith fmt frd r rc s = .next t) : t.fprs = (s.setFpr frd r.value).fprs := by
  cases h
  cases rc <;> rfl

end

/-! ## The class of a result (R348) -/

/-- A denormal of the format lies below its least normal, as a pattern and as a value. -/
theorem isDenormalOf_iff (fmt : FpFormat) (d : DWord) : isDenormalOf fmt d = true ↔ |valueOf d| < 2 ^ fmt.emin := by
  have hexp (E : Nat) : expOf d < E ↔ magnitudeBits d < E * 2 ^ 52 := by
    rw [expOf_eq_div]
    omega
  rw [abs_valueOf]
  cases fmt with
  | double =>
    have hleast : magnitudeValue (1 * 2 ^ 52) = 2 ^ (FpFormat.double).emin := by
      refine (magnitudeValue_lattice (t := 0) (N := 2 ^ 52) (by norm_num) (.inl rfl)).trans ?_
      rw [Nat.cast_pow, Nat.cast_ofNat, ← zpow_natCast, ← zpow_add₀ (two_ne_zero' ℚ)]
      rfl
    rw [← hleast, magnitudeValue_strictMono.lt_iff_lt, ← hexp, isDenormalOf, beq_iff_eq, Nat.lt_one_iff]
  | single =>
    have hleast : magnitudeValue (897 * 2 ^ 52) = 2 ^ (FpFormat.single).emin := by
      refine (magnitudeValue_lattice (t := 896) (N := 2 ^ 52) (by norm_num) (.inr le_rfl)).trans ?_
      rw [Nat.cast_pow, Nat.cast_ofNat, ← zpow_natCast, ← zpow_add₀ (two_ne_zero' ℚ)]
      rfl
    rw [← hleast, magnitudeValue_strictMono.lt_iff_lt, ← hexp, isDenormalOf, decide_eq_true_iff]

theorem fprfOf_eq_classBits (fmt : FpFormat) (d : DWord) : fprfOf fmt d = classBits fmt d := by
  unfold fprfOf classBits
  cases hf : isFinite d
  · have hnan : d.extractLsb' 0 52 ≠ 0 ↔ isNaN d = true := by
      have hexp : expOf d = 2047 := bne_eq_false_iff_eq.mp hf
      rw [isNaN, hexp, beq_self_eq_true, Bool.true_and, bne_iff_ne]
      exact not_congr BitVec.toNat_inj.symm
    rw [if_pos rfl]
    cases hn : isNaN d
    · have hfrac : ¬ d.extractLsb' 0 52 ≠ 0 := fun h => by
        rw [hnan, hn] at h
        cases h
      rw [if_neg hfrac, isInf_eq_not_isFinite hn, hf]
      rfl
    · rw [if_pos (hnan.mpr hn)]
      rfl
  · rw [isNaN_of_isFinite hf, isInf_of_isFinite hf]
    simp only [isZero_iff_valueOf, isDenormalOf_iff]
    rfl

/-! ## Moves: 64 bits copied (R376 to R379) -/

section

variable {frd : FprNum} {v src : DWord} {sign rc : Bool} {s : State}

theorem finishFpMove_bits (hv : ∀ k, k < 64 → v.getMsbD k = if k = 0 then sign else src.getMsbD k) :
    ∃ t, finishFpMove frd v rc s = .next t ∧ floatOnly s t ∧ t.fpscr = s.fpscr ∧ floatRecord rc s t ∧
      onlyFpr frd (t.fpr frd) s t ∧ ∀ k, k < 64 → (t.fpr frd).getMsbD k = if k = 0 then sign else src.getMsbD k := by
  obtain ⟨t, ht, honly, ⟨hfrd, hothers⟩, hfpscr, hrecord⟩ := finishFpMove_ends frd v rc s
  exact ⟨t, ht, honly, hfpscr, hrecord, ⟨rfl, hothers⟩, by rwa [hfrd]⟩

end

theorem getMsbD_signBit {k : Nat} (hk : k < 64) : (0x8000000000000000 : DWord).getMsbD k = decide (k = 0) := by
  interval_cases k <;> decide

theorem getMsbD_magnitudeMask {k : Nat} (hk : k < 64) : (0x7FFFFFFFFFFFFFFF : DWord).getMsbD k = !decide (k = 0) := by
  interval_cases k <;> decide

/-! ## The FPSCR instructions (R381 to R385) -/

section

variable {w : Word} {rc : Bool} {s : State}

theorem finishFpscr_bits {bit : Nat → Bool} (hd : fpscrConsistent w)
    (hw : ∀ k, k < 32 → k ≠ 1 → k ≠ 2 → w.getMsbD k = bit k) :
    ∃ t, finishFpscr w rc s = .next t ∧ floatOnly s t ∧ (∀ x, t.fpr x = s.fpr x) ∧ floatRecord rc s t ∧
      derivedBits t.fpscr ∧ ∀ k, k < 32 → k ≠ 1 → k ≠ 2 → t.fpscr.getMsbD k = bit k := by
  obtain ⟨t, ht, honly, hfprs, rfl, hrecord⟩ := finishFpscr_ends w rc s
  exact ⟨t, ht, honly, hfprs, hrecord, (derivedBits_iff _).mpr hd, hw⟩

end

theorem getMsbD_bitMask (n : CrBit) (k : Nat) : (bitMask n).getMsbD k = decide (k = n.toNat) := by
  have h : putBitAt 0 n true = bitMask n := BitVec.zero_or
  rw [← h, getMsbD_putBitAt]
  by_cases hk : k = n.toNat <;> simp [hk]

theorem getMsbD_fpFX (k : Nat) : fpFX.getMsbD k = decide (k = 0) := getMsbD_bitMask 0 k

theorem getMsbD_copiedBits (f : CrField) (k : Nat) :
    (copiedBits f).getMsbD k = (decide (k / 4 = f.toNat) && (isExceptionBit k || decide (k = 0))) := by
  rw [copiedBits, BitVec.getMsbD_and, BitVec.getMsbD_or, getMsbD_fieldMask, getMsbD_fpExceptionBits, getMsbD_fpFX]

theorem getMsbD_lowWord (d : DWord) (k : Nat) : (lowWord d).getMsbD k = d.getMsbD (32 + k) := by
  simp [lowWord, BitVec.getMsbD_setWidth, Nat.add_comm]

/-- The flag `mtfsb1` commits: bits 1 and 2 are not written. -/
theorem getMsbD_writableBit (n : CrBit) {k : Nat} (h1 : k ≠ 1) (h2 : k ≠ 2) :
    (bitMask n &&& 0x9FFFFFFF).getMsbD k = decide (k = n.toNat) := by
  have hn := n.isLt
  have hmask : ∀ k, k < 32 → k ≠ 1 → k ≠ 2 → (0x9FFFFFFF : Word).getMsbD k = true := by decide
  rw [BitVec.getMsbD_and, getMsbD_bitMask]
  by_cases hk : k = n.toNat
  · rw [hmask k (by omega) h1 h2, Bool.and_true]
  · rw [decide_eq_false hk, Bool.false_and]

/-- R385: what `mtfsb1` commits, with FX where an exception bit goes up. -/
theorem getMsbD_commit_bit (old : Word) (n : CrBit) {k : Nat} (h1 : k ≠ 1) (h2 : k ≠ 2) :
    (commitFpscr old (bitMask n &&& 0x9FFFFFFF) id).getMsbD k =
      (old.getMsbD k || decide (k = n.toNat) || (decide (k = 0) && isExceptionBit n.toNat && !old.getMsbD n.toNat)) := by
  have hnew : newException old (old ||| (bitMask n &&& 0x9FFFFFFF)) ↔
      (isExceptionBit n.toNat && !old.getMsbD n.toNat) = true := by
    rw [Bool.and_eq_true, Bool.not_eq_true']
    constructor
    · rintro ⟨j, hj, hup, hold⟩
      have h3 := three_le_of_isExceptionBit hj
      rw [BitVec.getMsbD_or, hold, Bool.false_or, getMsbD_writableBit n (by omega) (by omega), decide_eq_true_iff] at hup
      exact hup ▸ ⟨hj, hold⟩
    · rintro ⟨hn, hold⟩
      have h3 := three_le_of_isExceptionBit hn
      refine ⟨n.toNat, hn, ?_, hold⟩
      rw [BitVec.getMsbD_or, getMsbD_writableBit n (by omega) (by omega), decide_eq_true rfl, Bool.or_true]
  rw [newException_iff] at hnew
  simp only [commitFpscr, getMsbD_deriveFpscr, if_neg h1, if_neg h2, getMsbD_raiseFX, id_eq, hnew, BitVec.getMsbD_or,
    getMsbD_writableBit n h1 h2, Bool.and_assoc]
  by_cases h0 : k = 0 <;> cases (isExceptionBit n.toNat && !old.getMsbD n.toNat) <;> simp [h0]

end Sys2Proof.Machine

namespace Sys2Proof

section

open Machine

/-! ## O48, O60: the commit -/

/-- Settles O48: the nineteen end alike, and their flags are exception bits. -/
theorem floatCommit : Obligations.FloatCommit := by
  intro i s fmt frd r rc h
  have hends := finishArith_ends fmt frd r rc s fun _ => (flags_of_arithForm h).isExceptionBit
  rwa [fprfOf_eq_classBits, ← exec_of_arithForm h] at hends

/-- Settles O60: the two runs deliver the same result, and commit the same flags and status over the same bits. -/
theorem enablesChangeNoResult : Obligations.EnablesChangeNoResult := by
  rintro i s t u f ⟨⟨fmt, frd, r, rc⟩, hform⟩ hkept ht hu
  have hmode : roundingMode f = roundingMode s.fpscr := by
    refine BitVec.eq_of_getLsbD_eq fun k hk => ?_
    have hbit := hkept (31 - k) (.inr (by omega))
    have hk' : 32 - 1 - (31 - k) = k := by omega
    have hlt : 31 - k < 32 := by omega
    simp only [BitVec.getMsbD, hk', hlt, decide_true, Bool.true_and] at hbit
    simpa [roundingMode, hk] using hbit
  have hform' : arithForm i { s with fpscr := f } = some (fmt, frd, r, rc) := (arithForm_setFpscr i s hmode).trans hform
  obtain ⟨t', ht', -, -, ⟨hexc, hstatus, hrest, -⟩, -⟩ := finishArith_ends fmt frd r rc s fun _ => (flags_of_arithForm hform).isExceptionBit
  obtain ⟨u', hu', -, -, ⟨hexc', hstatus', hrest', -⟩, -⟩ :=
    finishArith_ends fmt frd r rc { s with fpscr := f } fun _ => (flags_of_arithForm hform').isExceptionBit
  rw [exec_of_arithForm hform] at ht
  rw [exec_of_arithForm hform'] at hu
  cases ht'.symm.trans ht
  cases hu'.symm.trans hu
  refine ⟨(finishArith_fprs ht).trans (finishArith_fprs hu).symm, fun k h3 h24 => ?_⟩
  by_cases hk : isExceptionBit k = true
  · rw [hexc k hk, hexc' k hk, hkept k (.inl h24)]
  · by_cases hk' : 13 ≤ k ∧ k ≤ 19
    · rw [hstatus k hk'.1 hk'.2, hstatus' k hk'.1 hk'.2]
    · obtain rfl : k = 20 := by
        simp only [isExceptionBit, Bool.or_eq_true, Bool.and_eq_true, decide_eq_true_eq] at hk
        omega
      rw [hrest 20 (.inl rfl), hrest' 20 (.inl rfl), hkept 20 (.inl h24)]

/-! ## O57, O58: moves and the FPSCR instructions -/

/-- Settles O57: each move is a mask over the sign. -/
theorem floatMoves : Obligations.FloatMoves := by
  intro frd frb z11 z16 rc s
  refine ⟨finishFpMove_bits fun k hk => ?_, finishFpMove_bits fun k hk => ?_, finishFpMove_bits fun k hk => ?_,
    finishFpMove_bits fun k hk => ?_, ?_⟩
  · split
    · next h => rw [h]
    · rfl
  · rw [getMsbD_negate _ hk]
    by_cases h : k = 0 <;> simp [h]
  · rw [BitVec.getMsbD_and, getMsbD_magnitudeMask hk]
    by_cases h : k = 0 <;> simp [h]
  · rw [BitVec.getMsbD_or, getMsbD_signBit hk]
    by_cases h : k = 0 <;> simp [h]
  · obtain ⟨t, ht, honly, hfprs, hfpscr, hrecord⟩ := finishFpMove_ends frd (s.params.fpHighWord ++ s.fpscr) rc s
    exact ⟨t, ht, honly, hfpscr, hrecord, hfprs⟩

/-- Settles O58: a masked replacement, or for `mtfsb1` a commit, whose bits 1 and 2 are derived. -/
theorem fpscrInstructions : Obligations.FpscrInstructions := by
  intro d f z2 z14 z1 z1' z31 z5 z16 imm m frb n rc s
  refine ⟨⟨_, rfl, ⟨rfl, fun _ => rfl⟩, fun _ => rfl, fun k hk => ?_, (derivedBits_iff _).mpr (deriveFpscr_consistent _),
      fun k hk h1 h2 => ?_⟩,
    finishFpscr_bits (replaceFpscr_consistent ..) fun k hk h1 h2 => ?_,
    finishFpscr_bits (replaceFpscr_consistent ..) fun k hk h1 h2 => ?_,
    finishFpscr_bits (replaceFpscr_consistent ..) fun k hk h1 h2 => ?_,
    finishFpscr_bits (commitFpscr_consistent ..) fun k hk h1 h2 => getMsbD_commit_bit _ _ h1 h2⟩
  · refine (getMsbD_putField s.cr d _ k).trans ?_
    rw [getMsbD_getField _ _ _ (Nat.mod_lt k (by decide))]
  · refine (getMsbD_deriveFpscr _ k).trans ?_
    rw [if_neg h1, if_neg h2, BitVec.getMsbD_and, BitVec.getMsbD_not, getMsbD_copiedBits, decide_eq_true hk, Bool.true_and]
  · rw [getMsbD_replaceFpscr _ _ _ _ h1 h2, getMsbD_fieldMask, getMsbD_putField]
    by_cases h : k / 4 = d.toNat <;> simp [h]
  · rw [getMsbD_replaceFpscr _ _ _ _ h1 h2, getMsbD_fieldsMask, getMsbD_lowWord]
  · rw [getMsbD_replaceFpscr _ _ _ _ h1 h2, getMsbD_bitMask]
    by_cases h : k = n.toNat <;> simp [h]

end

end Sys2Proof

/-! PROOFS of the family 45_floating_point_arithmetic.md, third part: the conversions to an integer (R372, R373) and the compares (R374,
R375). The conversions cut the magnitude at weight 1; the compares order the signed 63 bits, which is the order of the values. -/

namespace Sys2Proof.Machine

/-! ## The commits that write less than FR, FI and the class -/

theorem getMsbD_or_flags {old flags : Word} (hf : OnlyExceptions flags) {k : Nat} (h13 : 13 ≤ k) (h19 : k ≤ 19) :
    (old ||| flags).getMsbD k = old.getMsbD k := by
  have hk : flags.getMsbD k = false := by
    rw [← Bool.not_eq_true]
    intro h
    have hexc := hf.isExceptionBit h
    simp only [isExceptionBit, Bool.or_eq_true, Bool.and_eq_true, decide_eq_true_eq] at hexc
    omega
  rw [BitVec.getMsbD_or, hk, Bool.or_false]

/-- `finishToInt`: P7 over the integer, FR and FI committed, FPRF kept (R372). -/
theorem finishToInt_ends (frd : FprNum) (r : IntResult) (rc : Bool) (s : State) (hf : OnlyExceptions r.flags) :
    ∃ t, finishToInt frd r rc s = .next t ∧ floatOnly s t ∧ floatRecord rc s t ∧
      onlyFpr frd (s.params.fpHighWord ++ r.word) s t ∧
      committed s.fpscr r.flags (fun k => if k = 13 then r.fr else if k = 14 then r.fi else s.fpscr.getMsbD k) t.fpscr := by
  obtain ⟨t, ht, honly, hfpr, hfpscr, hrecord⟩ := finishFp_ends frd (s.params.fpHighWord ++ r.word)
    (commitFpscr s.fpscr r.flags fun w => putFrFi w r.fr r.fi) rc s
  refine ⟨t, ht, honly, hrecord, hfpr, ?_⟩
  rw [hfpscr]
  refine commitFpscr_committed (fun _ => hf.isExceptionBit) (fun w k hk => ?_) (fun k h13 h19 => ?_)
  · rw [getMsbD_putFrFi, if_neg (by omega), if_neg (by omega)]
  · rw [getMsbD_putFrFi, getMsbD_or_flags hf h13 h19]

/-- `finishFpCompare`: the four bits in the CR field and in FPCC (R374). -/
theorem finishFpCompare_ends (n : CrField) (c : BitVec 4) (flags : Word) (s : State) (hf : OnlyExceptions flags) :
    ∃ t, finishFpCompare n c flags s = .next t ∧
      t = { s with cr := t.cr, fpscr := t.fpscr, pc := s.pc + 4, outcome := some .ok } ∧ sameImage s t ∧
      crField n (c.getMsbD 0) (c.getMsbD 1) (c.getMsbD 2) (c.getMsbD 3) s t ∧
      committed s.fpscr flags (fun k =>
        if k = 16 then c.getMsbD 0 else if k = 17 then c.getMsbD 1 else if k = 18 then c.getMsbD 2
        else if k = 19 then c.getMsbD 3 else s.fpscr.getMsbD k) t.fpscr := by
  refine ⟨_, complete_eq _, rfl, fun _ => rfl, crField_of_putField rfl, ?_⟩
  rw [completed_fpscr, setCrField_fpscr, setFpscr_fpscr]
  refine commitFpscr_committed (fun _ => hf.isExceptionBit) (fun w k hk => ?_) (fun k h13 h19 => ?_)
  · rw [getMsbD_putFpcc, if_neg (by omega)]
  · rw [getMsbD_putFpcc]
    by_cases hk : 16 ≤ k
    · rw [if_pos ⟨hk, h19⟩]
      obtain rfl | rfl | rfl | rfl : k = 16 ∨ k = 17 ∨ k = 18 ∨ k = 19 := by omega
      all_goals simp
    · rw [if_neg (fun h => hk h.1), getMsbD_or_flags hf h13 h19, if_neg (by omega), if_neg (by omega), if_neg (by omega),
        if_neg (by omega)]

/-! ## The value cut to an integer (R372) -/

/-- The integer part of the magnitude. -/
def truncatedOf (b : DWord) : Int := ⌊|valueOf b|⌋

/-- What the cut loses. -/
def lostOf (b : DWord) : ℚ := |valueOf b| - truncatedOf b

/-- Whether the mode takes the magnitude up. -/
def goesUp (rn : BitVec 2) (b : DWord) : Bool := incOf rn (signOf b) (truncatedOf b) (lostOf b)

/-- The value rounded to an integer by the mode. -/
def roundedInt (rn : BitVec 2) (b : DWord) : Int :=
  (if signOf b then -1 else 1) * (truncatedOf b + if goesUp rn b then 1 else 0)

theorem roundAt_zero (rn : BitVec 2) (b : DWord) :
    (if signOf b then -((roundAt rn (signOf b) (magOf b) 1 (scaleOf b) 0).kept : Int)
      else (roundAt rn (signOf b) (magOf b) 1 (scaleOf b) 0).kept) = roundedInt rn b ∧
      (roundAt rn (signOf b) (magOf b) 1 (scaleOf b) 0).inexact = decide (lostOf b ≠ 0) ∧
      (roundAt rn (signOf b) (magOf b) 1 (scaleOf b) 0).up = goesUp rn b := by
  have hx : (magOf b : ℚ) / (1 : Nat) * 2 ^ scaleOf b / 2 ^ (0 : Int) = |valueOf b| := by
    rw [abs_valueOf_eq_magOf, Nat.cast_one, div_one, zpow_zero, div_one]
  obtain ⟨hkept, hinexact, hup, -⟩ := roundAt_eq rn (signOf b) one_pos (scaleOf b) 0 (num := magOf b)
  simp only [hx] at hkept hinexact hup
  have hint : ((roundAt rn (signOf b) (magOf b) 1 (scaleOf b) 0).kept : Int) = truncatedOf b + if goesUp rn b then 1 else 0 := by
    have h : ((roundAt rn (signOf b) (magOf b) 1 (scaleOf b) 0).kept : ℚ) =
        (truncatedOf b : ℚ) + if goesUp rn b then 1 else 0 := hkept
    exact_mod_cast h
  refine ⟨?_, hinexact, hup⟩
  rw [hint, roundedInt]
  cases signOf b <;> simp

theorem fpToInt_of_finite (rn : BitVec 2) {b : DWord} (hb : isFinite b = true) :
    fpToInt rn b =
      if 2 ^ 31 - 1 < roundedInt rn b then { word := 0x7FFFFFFF, flags := fpVXCVI }
      else if roundedInt rn b < -(2 ^ 31) then { word := 0x80000000, flags := fpVXCVI }
      else
        { word := BitVec.ofInt 32 (roundedInt rn b)
          flags := if lostOf b ≠ 0 then fpXX else 0
          fr := goesUp rn b
          fi := decide (lostOf b ≠ 0) } := by
  obtain ⟨hv, hinexact, hup⟩ := roundAt_zero rn b
  rw [fpToInt, isNaN_of_isFinite hb, isInf_of_isFinite hb]
  simp only [hv, hinexact, hup, decide_eq_true_iff]
  rfl

theorem fpToInt_of_nan (rn : BitVec 2) {b : DWord} (hb : isNaN b = true) :
    fpToInt rn b = { word := 0x80000000, flags := fpVXCVI ||| if isSNaN b then fpVXSNAN else 0 } := by
  rw [fpToInt, if_pos hb, snanFlag, List.any_cons, List.any_nil, Bool.or_false]

theorem fpToInt_of_infinite (rn : BitVec 2) {b : DWord} (hn : isNaN b = false) (hb : isFinite b = false) :
    fpToInt rn b = { word := if signOf b then 0x80000000 else 0x7FFFFFFF, flags := fpVXCVI } := by
  rw [fpToInt, hn, isInf_eq_not_isFinite hn, hb]
  rfl

theorem fpToInt_flags (rn : BitVec 2) (b : DWord) : OnlyExceptions (fpToInt rn b).flags := by
  have hcvi : OnlyExceptions fpVXCVI := rfl
  cases hn : isNaN b
  · cases hb : isFinite b
    · rw [fpToInt_of_infinite rn hn hb]
      exact hcvi
    · rw [fpToInt_of_finite rn hb]
      split
      · exact hcvi
      · split
        · exact hcvi
        · exact .ite rfl rfl
  · rw [fpToInt_of_nan rn hn]
    exact hcvi.or (.ite rfl rfl)

theorem toInt_ofInt_of_fits {i : Int} (hlow : ¬ i < -(2 ^ 31)) (hhigh : ¬ 2 ^ 31 - 1 < i) : (BitVec.ofInt 32 i).toInt = i := by
  rw [BitVec.toInt_ofInt]
  exact Int.bmod_eq_of_le (by norm_num; omega) (by norm_num; omega)

/-! ## The order of the patterns (R374) -/

theorem orderKey_eq (d : DWord) : orderKey d = if signOf d then -(magnitudeBits d : Int) else magnitudeBits d := by
  have hmag : (d &&& 0x7FFFFFFFFFFFFFFF).toNat = magnitudeBits d := by
    rw [BitVec.toNat_and]
    exact Nat.and_two_pow_sub_one_eq_mod d.toNat 63
  rw [orderKey, hmag]

/-- The key orders all patterns as R341 would value them. -/
theorem orderKey_lt_iff (a b : DWord) : orderKey a < orderKey b ↔ valueOf a < valueOf b := by
  have hlt : magnitudeValue (magnitudeBits a) < magnitudeValue (magnitudeBits b) ↔ magnitudeBits a < magnitudeBits b :=
    magnitudeValue_strictMono.lt_iff_lt
  have hgt : magnitudeValue (magnitudeBits b) < magnitudeValue (magnitudeBits a) ↔ magnitudeBits b < magnitudeBits a :=
    magnitudeValue_strictMono.lt_iff_lt
  have hpos (d : DWord) : 0 < magnitudeValue (magnitudeBits d) ↔ 0 < magnitudeBits d := by
    rw [← magnitudeValue_zero, magnitudeValue_strictMono.lt_iff_lt]
  have hnonneg (d : DWord) := magnitudeValue_nonneg (magnitudeBits d)
  rw [orderKey_eq, orderKey_eq, valueOf_eq_magnitudeValue, valueOf_eq_magnitudeValue]
  cases signOf a <;> cases signOf b
  · simpa using hlt.symm
  · have hv : ¬ magnitudeValue (magnitudeBits a) < -magnitudeValue (magnitudeBits b) := by linarith [hnonneg a, hnonneg b]
    simp [hv]
  · have hv : -magnitudeValue (magnitudeBits a) < magnitudeValue (magnitudeBits b) ↔
        0 < magnitudeValue (magnitudeBits a) ∨ 0 < magnitudeValue (magnitudeBits b) := by
      constructor
      · intro h
        by_contra hc
        rw [not_or, not_lt, not_lt] at hc
        linarith [hc.1, hc.2]
      · rintro (h | h) <;> linarith [hnonneg a, hnonneg b]
    simp only [hpos] at hv
    simp [hv]
    omega
  · simpa using hgt.symm

theorem orderKey_bounds {d : DWord} (h : isNaN d = false) :
    -(2047 * 2 ^ 52) ≤ orderKey d ∧ orderKey d ≤ 2047 * 2 ^ 52 := by
  rw [← Bool.not_eq_true, isNaN_iff] at h
  rw [orderKey_eq]
  split <;> omega

/-- The infinities are the ends of the order. -/
theorem eq_infinity_iff_orderKey (d : DWord) :
    (d = 0xFFF0000000000000 ↔ orderKey d = -(2047 * 2 ^ 52)) ∧ (d = 0x7FF0000000000000 ↔ orderKey d = 2047 * 2 ^ 52) := by
  refine ⟨⟨fun h => by rw [h]; decide, fun h => ?_⟩, ⟨fun h => by rw [h]; decide, fun h => ?_⟩⟩
  · rw [orderKey_eq] at h
    cases hs : signOf d <;> rw [hs] at h
    · simp at h
    · exact eq_of_signOf_magnitudeBits hs (show _ = 2047 * 2 ^ 52 by simp at h; omega)
  · rw [orderKey_eq] at h
    cases hs : signOf d <;> rw [hs] at h
    · exact eq_of_signOf_magnitudeBits hs (show _ = 2047 * 2 ^ 52 by simp at h; omega)
    · simp at h; omega

theorem floatLess_iff {a b : DWord} (ha : isNaN a = false) (hb : isNaN b = false) :
    floatLess a b ↔ orderKey a < orderKey b := by
  unfold floatLess
  split
  · exact (orderKey_lt_iff a b).symm
  · next hfin =>
    have hends (d : DWord) (hd : isNaN d = false) (hf : isFinite d = false) :
        orderKey d = -(2047 * 2 ^ 52) ∨ orderKey d = 2047 * 2 ^ 52 := by
      have hinf : isInf d = true := by rw [isInf_eq_not_isFinite hd, hf, Bool.not_false]
      rw [orderKey_eq, (isInf_iff d).mp hinf]
      cases signOf d
      · exact .inr rfl
      · exact .inl rfl
    obtain ⟨hlowA, hhighA⟩ := orderKey_bounds ha
    obtain ⟨hlowB, hhighB⟩ := orderKey_bounds hb
    have hsome : isFinite a = false ∨ isFinite b = false := by
      rw [not_and_or, Bool.not_eq_true, Bool.not_eq_true] at hfin
      exact hfin
    rw [(eq_infinity_iff_orderKey a).1, (eq_infinity_iff_orderKey b).2]
    constructor
    · rintro ⟨hne, h | h⟩
      · have hb' : orderKey b ≠ -(2047 * 2 ^ 52) := fun hb' =>
          hne (((eq_infinity_iff_orderKey a).1.mpr h).trans ((eq_infinity_iff_orderKey b).1.mpr hb').symm)
        omega
      · have ha' : orderKey a ≠ 2047 * 2 ^ 52 := fun ha' =>
          hne (((eq_infinity_iff_orderKey a).2.mpr ha').trans ((eq_infinity_iff_orderKey b).2.mpr h).symm)
        omega
    · intro hlt
      refine ⟨fun he => by rw [he] at hlt; exact lt_irrefl _ hlt, ?_⟩
      rcases hsome with h | h
      · have := hends a ha h
        omega
      · have := hends b hb h
        omega

/-- The four bits of the compare are the order. -/
theorem fpCompare_floatOrder (a b : DWord) :
    floatOrder a b ((fpCompare a b).getMsbD 0) ((fpCompare a b).getMsbD 1) ((fpCompare a b).getMsbD 2)
      ((fpCompare a b).getMsbD 3) := by
  unfold floatOrder fpCompare
  by_cases hnan : isNaN a = true ∨ isNaN b = true
  · simp [hnan]
  · have hcond : ¬ (isNaN a || isNaN b) = true := by rwa [Bool.or_eq_true]
    have ⟨ha, hb⟩ : isNaN a = false ∧ isNaN b = false := by simpa using hnan
    simp only [if_neg hcond, floatLess_iff ha hb, floatLess_iff hb ha]
    rcases lt_trichotomy (orderKey a) (orderKey b) with h | h | h
    · simp [h, h.not_gt, ha, hb]
    · simp [h, ha, hb]
    · simp [h, h.not_gt, ha, hb]

/-- VXVC of `fcmpo` (R375). -/
theorem orderedFlag_eq (ve : Bool) (a b : DWord) :
    orderedFlag ve a b = if (if isSNaN a || isSNaN b then !ve else isNaN a || isNaN b) then fpVXVC else 0 := by
  unfold orderedFlag
  cases isSNaN a || isSNaN b
  · rfl
  · cases ve <;> rfl

theorem snanFlag_pair (a b : DWord) : snanFlag [a, b] = if isSNaN a || isSNaN b then fpVXSNAN else 0 := by
  simp [snanFlag]

end Sys2Proof.Machine

namespace Sys2Proof

section

open Machine

/-! ## O55, O56: conversions and compares -/

/-- Settles O55: `fctiwz` is `fctiw` with the mode toward zero. -/
theorem convertToInteger : Obligations.ConvertToInteger := by
  intro frd frb z rc s ends
  have hends (rn : BitVec 2) {i : Instr} (hi : exec i s = finishToInt frd (fpToInt rn (s.fpr frb)) rc s) :
      Ends i s (ends rn) := by
    obtain ⟨t, ht, honly, hrecord, hfpr, hfpscr⟩ := finishToInt_ends frd _ rc s (fpToInt_flags rn (s.fpr frb))
    refine ⟨t, hi.trans ht, honly, hrecord, _, _, _, _, hfpr, hfpscr, ?_⟩
    cases hn : isNaN (s.fpr frb)
    · cases hb : isFinite (s.fpr frb)
      · rw [fpToInt_of_infinite rn hn hb]
        exact ⟨rfl, rfl, rfl, rfl⟩
      · rw [fpToInt_of_finite rn hb]
        change if 2 ^ 31 - 1 < roundedInt rn (s.fpr frb) then _ else if roundedInt rn (s.fpr frb) < -(2 ^ 31) then _ else _
        split
        · exact ⟨rfl, rfl, rfl, rfl⟩
        · split
          · exact ⟨rfl, rfl, rfl, rfl⟩
          · next hhigh hlow => exact ⟨toInt_ofInt_of_fits hlow hhigh, rfl, rfl, rfl⟩
    · rw [fpToInt_of_nan rn hn]
      exact ⟨rfl, rfl, rfl, rfl⟩
  exact ⟨hends _ rfl, hends _ rfl⟩

/-- Settles O56: the compares end alike, in the flags that each sets. -/
theorem floatCompare : Obligations.FloatCompare := by
  intro d z9 fra frb z31 s
  have hflags (p q : Bool) : OnlyExceptions ((if p then fpVXSNAN else 0) ||| (if q then fpVXVC else 0)) :=
    .or (.ite rfl rfl) (.ite rfl rfl)
  have hends (q : Bool) := finishFpCompare_ends d (fpCompare (s.fpr fra) (s.fpr frb)) _ s
    (hflags (isSNaN (s.fpr fra) || isSNaN (s.fpr frb)) q)
  refine ⟨?_, ?_⟩
  · obtain ⟨t, ht, honly, himage, hcr, hfpscr⟩ := hends false
    refine ⟨t, ?_, honly, himage, _, _, _, _, fpCompare_floatOrder _ _, hcr, hfpscr⟩
    rw [← ht, ← snanFlag_pair, if_neg Bool.false_ne_true, show (0 : Word) = 0#32 from rfl, BitVec.or_zero]
    rfl
  · obtain ⟨t, ht, honly, himage, hcr, hfpscr⟩ := hends _
    refine ⟨t, ?_, honly, himage, _, _, _, _, fpCompare_floatOrder _ _, hcr, hfpscr⟩
    rw [← ht, ← snanFlag_pair, ← orderedFlag_eq]
    rfl

end

end Sys2Proof

/-! PROOFS of the family 45_floating_point_arithmetic.md, fourth part: what a rounded value is (R342 to R344). `Cut` says how R343 splits
the exact value; a value rounded to single is then a kept integer on binary32's lattice, which is a pattern of binary32. -/

namespace Sys2Proof.Machine

/-! ## The cut of R343 -/

/-- The magnitude of `x` is `n + rem` units of `2 ^ q`, where `n` has the format's precision or `q` is its least weight. -/
structure Cut (fmt : FpFormat) (x : ℚ) (n : Nat) (rem : ℚ) (q : Int) : Prop where
  split : |x| = (n + rem) * 2 ^ q
  rem_nonneg : 0 ≤ rem
  rem_lt_one : rem < 1
  lt : (n : ℚ) < 2 ^ fmt.precision
  least : fmt.emin - (fmt.precision - 1) ≤ q
  normal : q = fmt.emin - (fmt.precision - 1) ∨ (2 : ℚ) ^ (fmt.precision - 1) ≤ n

/-- The magnitude after R343's inc. -/
def cutValue (rn : BitVec 2) (neg : Bool) (n : Nat) (rem : ℚ) (q : Int) : ℚ :=
  ((n : ℚ) + if incOf rn neg n rem then 1 else 0) * 2 ^ q

section

variable {fmt : FpFormat} {rn : BitVec 2} {x rem : ℚ} {n : Nat} {q : Int} {r : FpResult}

theorem exists_cut (hx : x ≠ 0) (h : RoundsTo fmt rn x r) :
    ∃ n rem q, Cut fmt x n rem q ∧
      ((2 : ℚ) ^ (fmt.emax + 1) ≤ cutValue rn (decide (x < 0)) n rem q ∧
          r.value = overflowResult fmt rn (decide (x < 0)) ∧ r.flags = fpOX ||| fpXX ∨
        cutValue rn (decide (x < 0)) n rem q < 2 ^ (fmt.emax + 1) ∧ isFinite r.value = true ∧
          r.value.getMsbD 0 = decide (x < 0) ∧ |valueOf r.value| = cutValue rn (decide (x < 0)) n rem q) := by
  have h2 : (2 : ℚ) ≠ 0 := two_ne_zero
  have habs : 0 < |x| := abs_pos.mpr hx
  have hlow : (2 : ℚ) ^ Int.log 2 |x| ≤ |x| := by exact_mod_cast Int.zpow_log_le_self (b := 2) (by norm_num) habs
  have hhigh : |x| < (2 : ℚ) ^ (Int.log 2 |x| + 1) := by
    exact_mod_cast Int.lt_zpow_succ_log_self (b := 2) (by norm_num) |x|
  unfold RoundsTo at h
  dsimp only at h
  obtain ⟨q, hq⟩ : ∃ q, q = max (Int.log 2 |x|) fmt.emin - (fmt.precision - 1) := ⟨_, rfl⟩
  have hpq : (0 : ℚ) < 2 ^ q := zpow_pos two_pos q
  obtain ⟨n, hn⟩ := Int.eq_ofNat_of_zero_le (Int.floor_nonneg.mpr (div_nonneg habs.le hpq.le))
  rw [← hq, hn] at h
  have hfloor := Int.floor_le (|x| / 2 ^ q)
  have hnext := Int.lt_floor_add_one (|x| / 2 ^ q)
  rw [hn, Int.cast_natCast] at hfloor hnext
  refine ⟨n, |x| / 2 ^ q - n, q, ⟨?_, by linarith, by linarith, ?_, by omega, ?_⟩, ?_⟩
  · rw [add_sub_cancel, div_mul_cancel₀ _ hpq.ne']
  · calc (n : ℚ) ≤ |x| / 2 ^ q := hfloor
      _ < 2 ^ (Int.log 2 |x| + 1) / 2 ^ q := div_lt_div_of_pos_right hhigh hpq
      _ = 2 ^ (Int.log 2 |x| + 1 - q) := (zpow_sub₀ h2 _ _).symm
      _ ≤ 2 ^ fmt.precision := zpow_le_zpow_right₀ one_le_two (by omega)
  · rcases le_or_gt (Int.log 2 |x|) fmt.emin with he | he
    · exact .inl (by omega)
    · refine .inr ?_
      have hle : (2 : ℚ) ^ (fmt.precision - 1) ≤ |x| / 2 ^ q := by
        rw [le_div_iff₀ hpq, ← zpow_add₀ h2]
        refine le_trans (zpow_le_zpow_right₀ one_le_two ?_) hlow
        omega
      obtain ⟨p, hp⟩ : ∃ p : Nat, fmt.precision - 1 = p := by cases fmt <;> exact ⟨_, rfl⟩
      rw [hp, zpow_natCast] at hle ⊢
      have hint : ((2 ^ p : Nat) : Int) ≤ ⌊|x| / 2 ^ q⌋ := Int.le_floor.mpr (by exact_mod_cast hle)
      rw [hn] at hint
      exact_mod_cast hint
  · change if (2 : ℚ) ^ (fmt.emax + 1) ≤ cutValue rn (decide (x < 0)) n (|x| / 2 ^ q - n) q then _ else _ at h
    split at h
    · next hover => exact .inl ⟨hover, h.1, h.2.1⟩
    · next hover => exact .inr ⟨not_le.mp hover, h.1, h.2.1, h.2.2.1⟩

/-- A value that is not tiny keeps the full precision. -/
theorem Cut.normal_of_le (h : Cut fmt x n rem q) (hx : 2 ^ fmt.emin ≤ |x|) : (2 : ℚ) ^ (fmt.precision - 1) ≤ n := by
  rcases h.normal with hq | hn
  · obtain ⟨p, hp⟩ : ∃ p : Nat, fmt.precision - 1 = p := by cases fmt <;> exact ⟨_, rfl⟩
    have hpos : (0 : ℚ) < 2 ^ q := zpow_pos two_pos q
    have hle : (2 : ℚ) ^ (fmt.precision - 1) * 2 ^ q ≤ (n + rem) * 2 ^ q := by
      rw [← h.split, ← zpow_add₀ two_ne_zero, hq]
      simpa using hx
    have hlt : (2 : ℚ) ^ (fmt.precision - 1) < n + 1 :=
      (le_of_mul_le_mul_right hle hpos).trans_lt (by linarith [h.rem_lt_one])
    rw [hp, zpow_natCast] at hlt ⊢
    exact_mod_cast Nat.lt_succ_iff.mp (by exact_mod_cast hlt)
  · exact hn

end

/-! ## The patterns of binary32 (46_floating_point_load_store.md R421) -/

/-- The binary32 pattern of a sign and 31 bits. -/
def singlePattern (neg : Bool) (n : Nat) : Word := (if neg then 0x80000000 else 0) ||| BitVec.ofNat 32 n

theorem toNat_singlePattern (neg : Bool) {n : Nat} (hn : n < 2 ^ 31) :
    (singlePattern neg n).toNat = (if neg then 2 ^ 31 else 0) + n := by
  have hof : (BitVec.ofNat 32 n).toNat = n := by rw [BitVec.toNat_ofNat, Nat.mod_eq_of_lt (by omega)]
  rw [singlePattern, BitVec.toNat_or, hof]
  cases neg with
  | false => simp
  | true => simpa using (Nat.two_pow_add_eq_or_of_lt hn 1).symm

theorem singlePattern_fields (neg : Bool) {n : Nat} (hn : n < 2 ^ 31) :
    (singlePattern neg n).getMsbD 0 = neg ∧ ((singlePattern neg n).extractLsb' 23 8).toNat = n / 2 ^ 23 ∧
      ((singlePattern neg n).extractLsb' 0 23).toNat = n % 2 ^ 23 := by
  refine ⟨?_, ?_, ?_⟩
  · rw [← BitVec.msb_eq_getMsbD_zero, BitVec.msb_eq_decide, toNat_singlePattern neg hn]
    cases neg <;> simp
    omega
  · rw [BitVec.extractLsb'_toNat, toNat_singlePattern neg hn, Nat.shiftRight_eq_div_pow]
    cases neg <;> simp <;> omega
  · rw [BitVec.extractLsb'_toNat, toNat_singlePattern neg hn, Nat.shiftRight_zero]
    cases neg <;> simp
    omega

/-- An exponent and a fraction of binary32, put in the places of binary64. -/
theorem or_exponent_fraction {E : Nat} (hE : E < 2 ^ 11) (f : BitVec 23) :
    (BitVec.ofNat 64 E <<< 52) ||| (f.setWidth 64 <<< 29) = BitVec.ofNat 64 (E * 2 ^ 52 + f.toNat * 2 ^ 29) := by
  have hf := f.isLt
  have hfrac : f.toNat * 2 ^ 29 < 2 ^ 52 := by omega
  apply BitVec.eq_of_toNat_eq
  have hleft : (BitVec.ofNat 64 E <<< 52).toNat = E <<< 52 := by
    rw [BitVec.toNat_shiftLeft, BitVec.toNat_ofNat, Nat.shiftLeft_eq, Nat.shiftLeft_eq]
    omega
  have hright : (f.setWidth 64 <<< 29).toNat = f.toNat * 2 ^ 29 := by
    rw [BitVec.toNat_shiftLeft, BitVec.toNat_setWidth, Nat.shiftLeft_eq]
    omega
  rw [BitVec.toNat_or, hleft, hright, ← Nat.shiftLeft_add_eq_or_of_lt hfrac, BitVec.toNat_ofNat, Nat.shiftLeft_eq]
  omega

/-- The 63 bits of DOUBLE (R421) from the exponent and the fraction of a binary32 pattern: an infinity or NaN, a normal, a zero, a
denormal with its leading one shifted out. -/
def doubleBits (e f : Nat) : Nat :=
  if e = 255 then 2047 * 2 ^ 52 + f * 2 ^ 29
  else if e ≠ 0 then (e + 896) * 2 ^ 52 + f * 2 ^ 29
  else if f = 0 then 0
  else (874 + Nat.log2 f) * 2 ^ 52 + (f * 2 ^ (23 - Nat.log2 f) - 2 ^ 23) * 2 ^ 29

/-- A fraction with its leading one shifted to bit 23. -/
theorem shifted_bounds {f : Nat} (h0 : f ≠ 0) (hf : f < 2 ^ 23) :
    2 ^ 23 ≤ f * 2 ^ (23 - Nat.log2 f) ∧ f * 2 ^ (23 - Nat.log2 f) < 2 ^ 24 := by
  have hlog : Nat.log2 f < 23 := (Nat.log2_lt h0).mpr hf
  constructor
  · calc 2 ^ 23 = 2 ^ Nat.log2 f * 2 ^ (23 - Nat.log2 f) := by rw [← pow_add]; congr 1; omega
      _ ≤ _ := Nat.mul_le_mul_right _ (Nat.log2_self_le h0)
  · calc f * 2 ^ (23 - Nat.log2 f) < 2 ^ (Nat.log2 f + 1) * 2 ^ (23 - Nat.log2 f) :=
          Nat.mul_lt_mul_of_pos_right Nat.lt_log2_self (Nat.two_pow_pos _)
      _ = 2 ^ 24 := by rw [← pow_add]; congr 1; omega

theorem doubleBits_lt {e f : Nat} (he : e < 2 ^ 8) (hf : f < 2 ^ 23) : doubleBits e f < 2 ^ 63 := by
  unfold doubleBits
  split
  · omega
  · split
    · omega
    · split
      · norm_num
      · next h0 =>
        have hlog : Nat.log2 f < 23 := (Nat.log2_lt h0).mpr hf
        have hbounds := shifted_bounds h0 hf
        generalize f * 2 ^ (23 - Nat.log2 f) = m at hbounds
        omega

theorem toDouble_eq_signed (w : Word) :
    toDouble w = signed (w.getMsbD 0) (doubleBits (w.extractLsb' 23 8).toNat (w.extractLsb' 0 23).toNat) := by
  have he := (w.extractLsb' 23 8).isLt
  have hf := (w.extractLsb' 0 23).isLt
  unfold toDouble doubleBits
  generalize (w.extractLsb' 23 8).toNat = e at he
  generalize w.extractLsb' 0 23 = f at hf
  dsimp only
  split
  · exact (BitVec.or_assoc ..).trans (congrArg (signBit _ ||| ·) (or_exponent_fraction (E := 2047) (by norm_num) f))
  · split
    · rw [BitVec.or_assoc, or_exponent_fraction (by omega), signed]
    · have hzero : f = 0 ↔ f.toNat = 0 := BitVec.toNat_inj.symm
      simp only [hzero]
      split
      · exact BitVec.or_zero.symm
      · next h0 =>
        have hlog : Nat.log2 f.toNat < 23 := (Nat.log2_lt h0).mpr hf
        have hk : 22 - Nat.log2 f.toNat + 1 = 23 - Nat.log2 f.toNat := by omega
        have hE : 1023 - 127 - (22 - Nat.log2 f.toNat) = 874 + Nat.log2 f.toNat := by omega
        have hshift : (f <<< (22 - Nat.log2 f.toNat + 1)).toNat = f.toNat * 2 ^ (23 - Nat.log2 f.toNat) - 2 ^ 23 := by
          have hbounds := shifted_bounds h0 hf
          rw [BitVec.toNat_shiftLeft, Nat.shiftLeft_eq, hk]
          omega
        rw [hE, BitVec.or_assoc, or_exponent_fraction (by omega), hshift, signed]

theorem negate_toDouble (w : Word) : negate (toDouble w) = toDouble (w ^^^ 0x80000000) := by
  have hexp : (w ^^^ 0x80000000).extractLsb' 23 8 = w.extractLsb' 23 8 := by
    rw [BitVec.extractLsb'_xor]
    exact BitVec.xor_zero
  have hfrac : (w ^^^ 0x80000000).extractLsb' 0 23 = w.extractLsb' 0 23 := by
    rw [BitVec.extractLsb'_xor]
    exact BitVec.xor_zero
  have hsign : (w ^^^ 0x80000000).getMsbD 0 = !w.getMsbD 0 := by
    rw [BitVec.getMsbD_xor]
    exact Bool.xor_true _
  rw [toDouble_eq_signed, toDouble_eq_signed, hexp, hfrac, hsign]
  exact negate_signed _ (doubleBits_lt (BitVec.isLt _) (BitVec.isLt _))

/-- Up to 24 bits at weight `2 ^ (t - 149)`: a pattern of binary32 whose DOUBLE has that value. -/
theorem toDouble_lattice (neg : Bool) {t N : Nat} (hN : N ≤ 2 ^ 24) (ht : t = 0 ∨ 2 ^ 23 ≤ N)
    (hfin : t * 2 ^ 23 + N < 255 * 2 ^ 23) :
    (toDouble (singlePattern neg (t * 2 ^ 23 + N))).getMsbD 0 = neg ∧
      |valueOf (toDouble (singlePattern neg (t * 2 ^ 23 + N)))| = N * 2 ^ ((t : Int) - 149) := by
  obtain ⟨hsign, hexp, hfrac⟩ := singlePattern_fields neg (n := t * 2 ^ 23 + N) (by omega)
  have hvalue : magnitudeValue (doubleBits ((t * 2 ^ 23 + N) / 2 ^ 23) ((t * 2 ^ 23 + N) % 2 ^ 23)) =
      N * 2 ^ ((t : Int) - 149) := by
    have hinf : (t * 2 ^ 23 + N) / 2 ^ 23 ≠ 255 := by omega
    rw [doubleBits, if_neg hinf]
    rcases Nat.lt_or_ge N (2 ^ 23) with hlt | hge
    · obtain rfl : t = 0 := by omega
      rw [zero_mul, zero_add, Nat.div_eq_of_lt hlt, if_neg (by simp), Nat.mod_eq_of_lt hlt]
      split
      · next h0 => simp [h0]
      · next h0 =>
        have hlog : Nat.log2 N < 23 := (Nat.log2_lt h0).mpr hlt
        have hbounds := shifted_bounds h0 hlt
        have hbits : (874 + Nat.log2 N) * 2 ^ 52 + (N * 2 ^ (23 - Nat.log2 N) - 2 ^ 23) * 2 ^ 29 =
            (873 + Nat.log2 N) * 2 ^ 52 + N * 2 ^ (23 - Nat.log2 N) * 2 ^ 29 := by omega
        have hlattice := magnitudeValue_lattice (t := 873 + Nat.log2 N) (N := N * 2 ^ (23 - Nat.log2 N) * 2 ^ 29) (by omega)
          (.inr (by omega))
        have hweight : ((873 + Nat.log2 N : Nat) : Int) - 1074 = -149 - (((23 - Nat.log2 N : Nat) : Int) + 29) := by omega
        rw [hbits, hlattice, hweight, zpow_sub₀ two_ne_zero, zpow_add₀ two_ne_zero, zpow_natCast]
        push_cast
        field_simp
    · have hnormal : (t * 2 ^ 23 + N) / 2 ^ 23 ≠ 0 := by omega
      have hbits : ((t * 2 ^ 23 + N) / 2 ^ 23 + 896) * 2 ^ 52 + (t * 2 ^ 23 + N) % 2 ^ 23 * 2 ^ 29 =
          (t + 896) * 2 ^ 52 + N * 2 ^ 29 := by omega
      have hlattice := magnitudeValue_lattice (t := t + 896) (N := N * 2 ^ 29) (by omega) (.inr (by omega))
      have hweight : ((t + 896 : Nat) : Int) - 1074 = ((t : Int) - 149) - 29 := by omega
      rw [if_pos hnormal, hbits, hlattice, hweight, zpow_sub₀ two_ne_zero]
      push_cast
      field_simp
  have hlt : doubleBits ((t * 2 ^ 23 + N) / 2 ^ 23) ((t * 2 ^ 23 + N) % 2 ^ 23) < 2 ^ 63 :=
    doubleBits_lt (by omega) (Nat.mod_lt _ (by norm_num))
  rw [toDouble_eq_signed, hsign, hexp, hfrac]
  exact ⟨signOf_signed neg hlt, by rw [abs_valueOf, magnitudeBits_signed neg hlt, hvalue]⟩

theorem eq_of_sign_value {d d' : DWord} (hs : d.getMsbD 0 = d'.getMsbD 0) (hv : |valueOf d| = |valueOf d'|) : d = d' := by
  rw [abs_valueOf, abs_valueOf] at hv
  exact eq_of_signOf_magnitudeBits hs (magnitudeValue_strictMono.injective hv)

/-! ## Single-precision results (R342, R343) -/

/-- A binary64 pattern that is the image of a binary32 pattern. -/
def IsSingle (d : DWord) : Prop := ∃ w : Word, d = toDouble w

theorem isSingle_infinity (neg : Bool) : IsSingle (infinity neg) :=
  ⟨if neg then 0xFF800000 else 0x7F800000, by cases neg <;> rfl⟩

theorem isSingle_zero (neg : Bool) : IsSingle (zero neg) := ⟨if neg then 0x80000000 else 0, by cases neg <;> rfl⟩

theorem isSingle_overflowResult (rn : BitVec 2) (neg : Bool) : IsSingle (overflowResult .single rn neg) := by
  have hlargest : toDouble 0x7F7FFFFF = 0x47EFFFFFE0000000 ∧ toDouble 0xFF7FFFFF = 0xC7EFFFFFE0000000 := ⟨rfl, rfl⟩
  have hinf : toDouble 0x7F800000 = 0x7FF0000000000000 ∧ toDouble 0xFF800000 = 0xFFF0000000000000 := ⟨rfl, rfl⟩
  have hall : ∀ (rn : BitVec 2) (neg : Bool), overflowResult .single rn neg ∈
      ([0x47EFFFFFE0000000, 0xC7EFFFFFE0000000, 0x7FF0000000000000, 0xFFF0000000000000] : List DWord) := by decide
  have hmem := hall rn neg
  simp only [List.mem_cons, List.not_mem_nil, or_false] at hmem
  rcases hmem with h | h | h | h
  · exact ⟨_, h.trans hlargest.1.symm⟩
  · exact ⟨_, h.trans hlargest.2.symm⟩
  · exact ⟨_, h.trans hinf.1.symm⟩
  · exact ⟨_, h.trans hinf.2.symm⟩

theorem isSingle_of_roundsTo {rn : BitVec 2} {x : ℚ} {r : FpResult} (hx : x ≠ 0) (h : RoundsTo .single rn x r) :
    IsSingle r.value := by
  obtain ⟨n, rem, q, hcut, ⟨-, hvalue, -⟩ | ⟨hlt, -, hsign, hvalue⟩⟩ := exists_cut hx h
  · rw [hvalue]
    exact isSingle_overflowResult _ _
  · have hlt24 : (n : ℚ) < 2 ^ (24 : Int) := hcut.lt
    have hn : n < 2 ^ 24 := by exact_mod_cast hlt24
    have hq : -149 ≤ q := hcut.least
    obtain ⟨t, ht⟩ := Int.eq_ofNat_of_zero_le (show 0 ≤ q + 149 by omega)
    obtain ⟨N, hN, hNn⟩ : ∃ N : Nat, cutValue rn (decide (x < 0)) n rem q = N * 2 ^ ((t : Int) - 149) ∧ (N = n ∨ N = n + 1) := by
      have hqt : (t : Int) - 149 = q := by omega
      rw [hqt, cutValue]
      split
      · exact ⟨n + 1, by push_cast; rfl, .inr rfl⟩
      · exact ⟨n, by rw [add_zero], .inl rfl⟩
    have hnormal : t = 0 ∨ 2 ^ 23 ≤ N := by
      rcases hcut.normal with hq' | hn'
      · have : q = -149 := hq'
        omega
      · have hn'' : (2 : ℚ) ^ (23 : Int) ≤ n := hn'
        have : 2 ^ 23 ≤ n := by exact_mod_cast hn''
        omega
    have hfin : t * 2 ^ 23 + N < 255 * 2 ^ 23 := by
      rcases hnormal with h0 | hge
      · omega
      · rw [hN] at hlt
        by_contra hc
        have hle : (2 : ℚ) ^ (128 : Int) ≤ N * 2 ^ ((t : Int) - 149) := by
          rcases Nat.lt_or_ge t 254 with h254 | h254
          · have hN' : N = 2 ^ 24 ∧ t = 253 := by omega
            rw [hN'.1, hN'.2]
            norm_num
          · calc (2 : ℚ) ^ (128 : Int) = 2 ^ (23 : Int) * 2 ^ (105 : Int) := by rw [← zpow_add₀ two_ne_zero]; rfl
              _ ≤ N * 2 ^ ((t : Int) - 149) := by
                refine mul_le_mul ?_ (zpow_le_zpow_right₀ one_le_two (by omega)) (by positivity) (by positivity)
                exact_mod_cast hge
        exact absurd hlt (not_lt.mpr hle)
    obtain ⟨hs, hv⟩ := toDouble_lattice (decide (x < 0)) (by omega) hnormal hfin
    exact ⟨_, eq_of_sign_value (hsign.trans hs.symm) ((hvalue.trans hN).trans hv.symm)⟩

end Sys2Proof.Machine

namespace Sys2Proof.Machine

/-! ## The single forms of the operations (R342) -/

section

variable (rn : BitVec 2) (flip : Bool) (a b c : DWord)

theorem isSingle_roundTo (neg : Bool) {num den : Nat} (hn : 0 < num) (hd : 0 < den) (e : Int) :
    IsSingle (roundTo .single rn neg num den e).value := by
  refine isSingle_of_roundsTo ?_ (roundTo_roundsTo .single rn neg hn hd e)
  have hn' : (num : ℚ) ≠ 0 := by exact_mod_cast hn.ne'
  have hd' : (den : ℚ) ≠ 0 := by exact_mod_cast hd.ne'
  have he : (2 : ℚ) ^ e ≠ 0 := zpow_ne_zero _ two_ne_zero
  cases neg <;> simp [hn', hd', he]

theorem isSingle_roundSum (neg neg' : Bool) (m m' : Nat) (e e' : Int) :
    IsSingle (roundSum .single rn neg m e neg' m' e').value := by
  have h := roundSum_spec .single rn neg neg' m m' e e'
  split at h
  · rw [h]
    exact isSingle_zero _
  · next hne => exact isSingle_of_roundsTo hne h

/-- A result that is no NaN and binary32 where it is one: what each operation of the single forms delivers. -/
def SingleOrNaN (r : FpResult) : Prop := isNaN r.value = false → IsSingle r.value

theorem singleOrNaN_withNaNs {ops : List DWord} {r : FpResult} (h : (∀ d ∈ ops, isNaN d = false) → SingleOrNaN r) :
    SingleOrNaN (withNaNs ops r) := by
  intro hn
  by_cases hops : ∃ d ∈ ops, isNaN d = true
  · rw [isNaN_of_isNaNResult (withNaNs_of_nan hops)] at hn
    cases hn
  · have hnone : ∀ d ∈ ops, isNaN d = false := fun d hd => by
      rw [← Bool.not_eq_true]
      exact fun hd' => hops ⟨d, hd, hd'⟩
    rw [withNaNs_of_not_nan hnone] at hn ⊢
    exact h hnone hn

theorem singleOrNaN_ite {p : Prop} [Decidable p] {r q : FpResult} (hr : p → SingleOrNaN r) (hq : ¬ p → SingleOrNaN q) :
    SingleOrNaN (if p then r else q) := by
  split
  · next h => exact hr h
  · next h => exact hq h

theorem singleOrNaN_invalidResult (flag : Word) : SingleOrNaN (invalidResult flag) := fun h => by
  have hnan : isNaN defaultNaN = true := by decide
  exact absurd (hnan.symm.trans h) (by decide)

theorem singleOrNaN_infinity (neg : Bool) (flags : Word) : SingleOrNaN { value := infinity neg, flags := flags } :=
  fun _ => isSingle_infinity neg

theorem singleOrNaN_zero (neg : Bool) : SingleOrNaN (exactResult (zero neg)) := fun _ => isSingle_zero neg

theorem singleOrNaN_of_isInf {d : DWord} (h : isInf d = true) : SingleOrNaN (exactResult d) := fun _ => by
  rw [eq_infinity_of_isInf h]
  exact isSingle_infinity _

theorem magOf_pos_of_not_isZero {d : DWord} (h : ¬ isZero d = true) : 0 < magOf d :=
  magOf_pos fun h0 => h ((isZero_iff_valueOf d).mpr h0)

theorem fpAdd_single : SingleOrNaN (fpAdd .single rn flip a b) :=
  singleOrNaN_withNaNs fun _ => singleOrNaN_ite
    (fun ha => singleOrNaN_ite (fun _ => singleOrNaN_invalidResult _) fun _ => singleOrNaN_of_isInf ha)
    fun _ => singleOrNaN_ite (fun _ => singleOrNaN_infinity _ _) fun _ _ => isSingle_roundSum ..

theorem fpMul_single : SingleOrNaN (fpMul .single rn a c) :=
  singleOrNaN_withNaNs fun _ => singleOrNaN_ite (fun _ => singleOrNaN_invalidResult _) fun _ =>
    singleOrNaN_ite (fun _ => singleOrNaN_infinity _ _) fun _ => singleOrNaN_ite (fun _ => singleOrNaN_zero _) fun h _ => by
      rw [Bool.or_eq_true, not_or] at h
      exact isSingle_roundTo rn _ (Nat.mul_pos (magOf_pos_of_not_isZero h.1) (magOf_pos_of_not_isZero h.2)) one_pos _

theorem fpDiv_single : SingleOrNaN (fpDiv .single rn a b) :=
  singleOrNaN_withNaNs fun _ => singleOrNaN_ite (fun _ => singleOrNaN_invalidResult _) fun _ =>
    singleOrNaN_ite (fun _ => singleOrNaN_invalidResult _) fun _ => singleOrNaN_ite (fun _ => singleOrNaN_infinity _ _) fun _ =>
    singleOrNaN_ite (fun _ => singleOrNaN_zero _) fun _ => singleOrNaN_ite (fun _ => singleOrNaN_infinity _ _) fun hb =>
    singleOrNaN_ite (fun _ => singleOrNaN_zero _) fun ha _ =>
      isSingle_roundTo rn _ (magOf_pos_of_not_isZero ha) (magOf_pos_of_not_isZero hb) _

theorem fpMulAdd_single : SingleOrNaN (fpMulAdd .single rn flip a c b) :=
  singleOrNaN_withNaNs fun _ => singleOrNaN_ite (fun _ => singleOrNaN_invalidResult _) fun _ => singleOrNaN_ite
    (fun _ => singleOrNaN_ite (fun _ => singleOrNaN_invalidResult _) fun _ => singleOrNaN_infinity _ _)
    fun _ => singleOrNaN_ite (fun _ => singleOrNaN_infinity _ _) fun _ _ => isSingle_roundSum ..

theorem negateResult_single {r : FpResult} (h : SingleOrNaN r) : SingleOrNaN (negateResult r) := by
  intro hn
  cases hr : isNaN r.value
  · obtain ⟨w, hw⟩ := h hr
    rw [negateResult_of_not_nan hr]
    exact ⟨_, (congrArg negate hw).trans (negate_toDouble w)⟩
  · rw [negateResult_of_nan hr, hr] at hn
    cases hn

theorem fpRoundToSingle_single : SingleOrNaN (fpRoundToSingle rn b) := by
  intro hn
  cases hb : isNaN b
  · rw [fpRoundToSingle_of_not_nan rn hb] at hn ⊢
    revert hn
    exact singleOrNaN_ite (fun _ => singleOrNaN_infinity _ _) fun _ => singleOrNaN_ite (fun _ => singleOrNaN_zero _)
      fun h _ => isSingle_roundTo rn _ (magOf_pos_of_not_isZero h) one_pos _
  · rw [fpRoundToSingle, if_pos hb] at hn
    exact absurd ((isNaN_quiet_cut hb).symm.trans hn) (by decide)

/-- R369: in both modes the estimate is a binary32 value, in the mode of an implementation because the bound asks for one. -/
theorem fresValue_single (mode : Estimate) (hb : ¬ isZero b = true) : IsSingle (fresValue mode rn b) := by
  have hdefault : IsSingle (roundTo .single rn (signOf b) 1 (magOf b) (-(scaleOf b))).value :=
    isSingle_roundTo rn _ one_pos (magOf_pos_of_not_isZero hb) _
  unfold fresValue
  cases mode with
  | correctlyRounded => exact hdefault
  | implementation =>
    dsimp only
    split
    · next h =>
      obtain ⟨hzero, hvalue⟩ : isZero (Config.fresEst b rn) = false ∧
          (roundTo .single 1 (signOf (Config.fresEst b rn)) (magOf (Config.fresEst b rn)) 1
            (scaleOf (Config.fresEst b rn))).value = Config.fresEst b rn := by
        simp only [fresInBound, isSingleValue, Bool.and_eq_true, Bool.not_eq_true', decide_eq_true_eq] at h
        obtain ⟨⟨⟨⟨⟨-, hzero⟩, hvalue⟩, -⟩, -⟩, -⟩ := h
        exact ⟨hzero, hvalue⟩
      rw [← hvalue]
      exact isSingle_roundTo 1 _ (magOf_pos_of_not_isZero (by rw [hzero]; exact Bool.false_ne_true)) one_pos _
    · exact hdefault

theorem fpRes_single (mode : Estimate) : SingleOrNaN (fpRes mode rn b) :=
  singleOrNaN_withNaNs fun _ => singleOrNaN_ite (fun _ => singleOrNaN_infinity _ _) fun hb =>
    singleOrNaN_ite (fun _ => singleOrNaN_zero _) fun _ _ => fresValue_single rn b mode hb

end

end Sys2Proof.Machine

namespace Sys2Proof

section

open Machine

/-! ## O53: single-precision results -/

/-- Settles O53: the results of the single forms are zeros, infinities and values rounded to single. -/
theorem singleResults : Obligations.SingleResults := by
  intro i s frd r rc h
  suffices hr : SingleOrNaN r from hr
  cases i with
  | fadds | fsubs => cases h; exact fpAdd_single _ _ _ _
  | fmuls => cases h; exact fpMul_single _ _ _
  | fdivs => cases h; exact fpDiv_single _ _ _
  | fmadds | fmsubs => cases h; exact fpMulAdd_single _ _ _ _ _
  | fnmadds | fnmsubs => cases h; exact negateResult_single (fpMulAdd_single _ _ _ _ _)
  | fres => cases h; exact fpRes_single _ _ _
  | frsp => cases h; exact fpRoundToSingle_single _ _
  | _ => cases h

end

end Sys2Proof

/-! PROOFS of the family 45_floating_point_arithmetic.md, fifth part: the estimates (R369, R370). The reciprocal is one rounding, within
one unit of its last place. For the reciprocal square root the model rounds a number that lies among the multiples of `2 ^ (-k)` where
the root does (`Separates`); the points a rounding turns on are such multiples, so it decides as the root would. -/

namespace Sys2Proof.Machine

/-! ## `fres` (R369) -/

section

variable {b v : DWord}

/-- The default of `fres` rounds the exact reciprocal. -/
theorem reciprocal_roundsTo (rn : BitVec 2) (hb : valueOf b ≠ 0) :
    RoundsTo .single rn (1 / valueOf b) (roundTo .single rn (signOf b) 1 (magOf b) (-(scaleOf b))) := by
  have h := roundTo_roundsTo .single rn (signOf b) one_pos (magOf_pos hb) (-(scaleOf b))
  have hone : (1 : ℚ) = signedValue false 1 0 := by simp [signedValue]
  rwa [hone, valueOf_eq_signedValue b, signedValue_div, Bool.false_xor, zero_sub]

/-- The product of two values of one sign is that of their magnitudes. -/
theorem valueOf_mul_of_sign {x : ℚ} (hx : x ≠ 0) (hs : signOf v = decide (1 / x < 0)) : valueOf v * x = |valueOf v| * |x| := by
  rw [abs_valueOf, valueOf_eq_magnitudeValue, hs, one_div]
  rcases lt_or_gt_of_ne hx with h | h
  · simp [h, abs_of_neg h]
  · simp [h.le, abs_of_pos h]

/-- A rounding to single that keeps all 24 bits is within 1/256 of the exact value. -/
theorem cut_relative_error {x rem y : ℚ} {n : Nat} {q : Int} (i : Bool) (hy : y * ((n + rem) * 2 ^ q) = 1) (h0 : 0 ≤ rem)
    (h1 : rem < 1) (hn : (2 : ℚ) ^ (23 : Int) ≤ n) (hx : x = (n + if i then 1 else 0) * 2 ^ q) : |x * y - 1| ≤ 1 / 256 := by
  have hpos : (0 : ℚ) < 2 ^ q := zpow_pos two_pos q
  rw [show (2 : ℚ) ^ (23 : Int) = 2 ^ 23 from rfl] at hn
  have hn0 : (0 : ℚ) < n := lt_of_lt_of_le (by norm_num) hn
  obtain ⟨w, hw⟩ : ∃ w, w = 2 ^ q * y := ⟨_, rfl⟩
  have hunit : (n + rem) * w = 1 := by rw [hw, ← hy]; ring
  have hw0 : 0 < w := (mul_pos_iff_of_pos_left (by positivity : 0 < n + rem)).mp (by rw [hunit]; exact one_pos)
  have hsmall : 2 ^ 23 * w ≤ 1 := by
    rw [← hunit]
    exact mul_le_mul_of_nonneg_right (by linarith) hw0.le
  have herror : x * y - 1 = ((if i then 1 else 0) - rem) * w := by
    rw [hx, ← hunit, hw]
    ring
  rw [herror, abs_mul, abs_of_pos hw0]
  have hi : |(if i then (1 : ℚ) else 0) - rem| ≤ 1 := by
    rw [abs_le]
    cases i
    · simp; constructor <;> linarith
    · simp; constructor <;> linarith
  calc |(if i then (1 : ℚ) else 0) - rem| * w ≤ 1 * w := mul_le_mul_of_nonneg_right hi hw0.le
    _ ≤ 1 / 256 := by linarith

theorem reciprocal_error {rn : BitVec 2} {r : FpResult} (hb : valueOf b ≠ 0) (h : RoundsTo .single rn (1 / valueOf b) r)
    (hox : r.flags &&& fpOX = 0) (hle : |valueOf b| ≤ 2 ^ 126) :
    isFinite r.value = true ∧ |valueOf r.value * valueOf b - 1| ≤ 1 / 256 := by
  obtain ⟨n, rem, q, hcut, ⟨-, -, hflags⟩ | ⟨-, hfin, hsign, hvalue⟩⟩ := exists_cut (one_div_ne_zero hb) h
  · rw [hflags] at hox
    exact absurd hox (by decide)
  · refine ⟨hfin, ?_⟩
    have hpos : 0 < |valueOf b| := abs_pos.mpr hb
    have hnormal : (2 : ℚ) ^ (24 - 1 : Int) ≤ n := by
      refine hcut.normal_of_le ?_
      change (2 : ℚ) ^ (-126 : Int) ≤ _
      rw [abs_div, abs_one, le_div_iff₀ hpos]
      calc (2 : ℚ) ^ (-126 : Int) * |valueOf b| ≤ 2 ^ (-126 : Int) * 2 ^ 126 := mul_le_mul_of_nonneg_left hle (by positivity)
        _ = 1 := by norm_num
    have hy : |valueOf b| * ((n + rem) * 2 ^ q) = 1 := by
      rw [← hcut.split, abs_div, abs_one]
      field_simp
    rw [valueOf_mul_of_sign hb hsign]
    exact cut_relative_error _ hy hcut.rem_nonneg hcut.rem_lt_one hnormal hvalue

theorem isFinite_of_not_special (hn : isNaN v = false) (hi : isInf v = false) : isFinite v = true := by
  rw [isInf_eq_not_isFinite hn] at hi
  simpa using hi

/-- The product of two magnitudes, as the bounds of the estimates take it. -/
theorem scaled_product (m : Nat) (x : Int) : ((m * pow2Up x : Nat) : ℚ) / (pow2Down x : ℚ) = m * 2 ^ x := by
  rw [Nat.cast_mul, mul_div_assoc, ← two_zpow_split]

/-- R369's bound says what it is meant to. -/
theorem fresInBound_error (hb : valueOf b ≠ 0) (h : fresInBound v b = true) :
    isFinite v = true ∧ |valueOf v * valueOf b - 1| ≤ 1 / 256 := by
  simp only [fresInBound, productParts, isSingleValue, Bool.and_eq_true, Bool.not_eq_true', decide_eq_true_eq, beq_iff_eq] at h
  obtain ⟨⟨⟨⟨⟨⟨hnan, hinf⟩, -⟩, -⟩, hsign⟩, hlow⟩, hhigh⟩ := h
  refine ⟨isFinite_of_not_special hnan hinf, ?_⟩
  have hneg : signOf v = decide (1 / valueOf b < 0) := by
    have hpos : 0 < magnitudeValue (magnitudeBits b) := by
      rw [← abs_valueOf]
      exact abs_pos.mpr hb
    rw [hsign, valueOf_eq_magnitudeValue, one_div]
    cases signOf b
    · simp [hpos.le]
    · simp [hpos]
  have hd : (0 : ℚ) < pow2Down (scaleOf v + scaleOf b) := by exact_mod_cast pow2Down_pos _
  have hproduct : |valueOf v| * |valueOf b| =
      ((magOf v * magOf b * pow2Up (scaleOf v + scaleOf b) : Nat) : ℚ) / (pow2Down (scaleOf v + scaleOf b) : ℚ) := by
    rw [scaled_product, abs_valueOf_eq_magOf, abs_valueOf_eq_magOf, zpow_add₀ two_ne_zero]
    push_cast
    ring
  have hlow' : (255 * pow2Down (scaleOf v + scaleOf b) : ℚ) ≤ 256 * (magOf v * magOf b * pow2Up (scaleOf v + scaleOf b) : Nat) := by
    exact_mod_cast of_decide_eq_true hlow
  have hhigh' : (256 * (magOf v * magOf b * pow2Up (scaleOf v + scaleOf b) : Nat) : ℚ) ≤ 257 * pow2Down (scaleOf v + scaleOf b) := by
    exact_mod_cast of_decide_eq_true hhigh
  rw [valueOf_mul_of_sign hb hneg, hproduct, abs_le, le_sub_iff_add_le, sub_le_iff_le_add, le_div_iff₀ hd, div_le_iff₀ hd]
  constructor <;> linarith

/-- In both modes the value is the default or within R369's bound. -/
theorem fresValue_cases (mode : Estimate) (rn : BitVec 2) (b : DWord) :
    fresValue mode rn b = (roundTo .single rn (signOf b) 1 (magOf b) (-(scaleOf b))).value ∨
      fresInBound (fresValue mode rn b) b = true := by
  unfold fresValue
  cases mode with
  | correctlyRounded => exact .inl rfl
  | implementation =>
    by_cases h : fresInBound (Config.fresEst b rn) b = true
    · exact .inr (by simp [h])
    · exact .inl (if_neg h)

end

/-! ## The integer part of a square root -/

theorem sqrtFrom_spec (n : Nat) : ∀ bits r : Nat, r * r ≤ n → n < (r + 2 ^ bits) * (r + 2 ^ bits) →
    sqrtFrom n bits r * sqrtFrom n bits r ≤ n ∧ n < (sqrtFrom n bits r + 1) * (sqrtFrom n bits r + 1)
  | 0, r, hle, hlt => ⟨hle, hlt⟩
  | bits + 1, r, hle, hlt => by
    rw [sqrtFrom]
    split
    · next h =>
      refine sqrtFrom_spec n bits _ h ?_
      rwa [Nat.add_assoc, ← Nat.two_mul, ← Nat.pow_succ']
    · next h => exact sqrtFrom_spec n bits r hle (not_le.mp h)

/-- Twice the root cut to an integer, and one more where something is cut, stands among the even numbers as twice the root does. -/
theorem sticky_order {m n r : Nat} (hm : 0 < m) (hle : r * r * m ≤ n) (hlt : n < (r + 1) * (r + 1) * m) (j : Nat) :
    (j * j * m ≤ n ↔ 2 * j ≤ 2 * r + bitNat (decide (r * r * m ≠ n))) ∧
      (n ≤ j * j * m ↔ 2 * r + bitNat (decide (r * r * m ≠ n)) ≤ 2 * j) := by
  have hmono {i j : Nat} (h : i ≤ j) : i * i * m ≤ j * j * m := Nat.mul_le_mul_right m (Nat.mul_le_mul h h)
  have hbelow : j * j * m ≤ n ↔ j ≤ r :=
    ⟨fun h => by
      by_contra hc
      exact absurd (hlt.trans_le (hmono (by omega : r + 1 ≤ j))) (not_lt.mpr h), fun h => (hmono h).trans hle⟩
  by_cases hexact : r * r * m = n
  · have hstrict (h : j < r) : j * j * m < n := by
      rw [← hexact]
      exact Nat.mul_lt_mul_of_pos_right (Nat.mul_self_lt_mul_self h) hm
    have habove : n ≤ j * j * m ↔ r ≤ j :=
      ⟨fun h => by
        by_contra hc
        exact absurd (hstrict (by omega)) (not_lt.mpr h), fun h => hexact ▸ hmono h⟩
    rw [hbelow, habove, decide_eq_false (not_not.mpr hexact), bitNat, if_neg Bool.false_ne_true]
    omega
  · have habove : n ≤ j * j * m ↔ r < j :=
      ⟨fun h => by
        by_contra hc
        exact hexact (le_antisymm hle (h.trans (hmono (by omega)))), fun h => hlt.le.trans (hmono h)⟩
    rw [hbelow, habove, decide_eq_true hexact, bitNat, if_pos rfl]
    omega

/-! ## What the model rounds stands where the root does (R370) -/

/-- `X` lies among the multiples of `2 ^ (-k)` where 1/sqrt(B) does. -/
def Separates (B X : ℚ) (k : Int) : Prop :=
  ∀ j : Nat, (((j : ℚ) * 2 ^ (-k)) ^ 2 * B ≤ 1 ↔ (j : ℚ) * 2 ^ (-k) ≤ X) ∧ (1 ≤ ((j : ℚ) * 2 ^ (-k)) ^ 2 * B ↔ X ≤ (j : ℚ) * 2 ^ (-k))

/-- `recipSqrt` with its three local values named. It is stated for a function equal to it, so that the definition is unfolded without
its argument: applied, it would be computed. -/
theorem recipSqrt_parts {f : Nat → Int → DWord} (hf : f = recipSqrt) (m : Nat) (e : Int) :
    ∃ (k : Int) (n r : Nat),
      f m e = (roundTo .double 0 false (2 * r + bitNat (decide (r * r * m ≠ n))) 1 (-k - 1)).value ∧
        k = 60 + ((Nat.log2 m : Int) + e) / 2 ∧ n = 2 ^ (2 * k - e).toNat ∧ r = sqrtFrom (n / m) 64 0 := by
  delta recipSqrt at hf
  exact ⟨_, _, _, congrFun (congrFun hf m) e, rfl, rfl, rfl⟩

theorem recipSqrt_separates {m : Nat} (hm : 0 < m) (e : Int) :
    ∃ (k : Int) (X : ℚ) (r : FpResult), k = 60 + ((Nat.log2 m : Int) + e) / 2 ∧ recipSqrt m e = r.value ∧
      RoundsTo .double 0 X r ∧ Separates ((m : ℚ) * 2 ^ e) X k ∧ 2 ^ (59 - k) ≤ X ∧ X ≤ 2 ^ (60 - k) := by
  obtain ⟨k, n, r, hroot, hk, hn, hr⟩ := recipSqrt_parts rfl m e
  obtain ⟨K, hK⟩ := Int.eq_ofNat_of_zero_le (show 0 ≤ 2 * k - e by omega)
  rw [hK, Int.toNat_natCast] at hn
  subst hn
  obtain ⟨A, hA⟩ : ∃ A, A = 2 * r + bitNat (decide (r * r * m ≠ 2 ^ K)) := ⟨_, rfl⟩
  rw [← hA] at hroot
  have hlow : 2 ^ Nat.log2 m ≤ m := Nat.log2_self_le hm.ne'
  have hhigh : m < 2 ^ (Nat.log2 m + 1) := Nat.lt_log2_self
  have hn120 : 2 ^ K ≤ 2 ^ 120 * m :=
    calc 2 ^ K ≤ 2 ^ (120 + Nat.log2 m) := Nat.pow_le_pow_right two_pos (by omega)
      _ = 2 ^ 120 * 2 ^ Nat.log2 m := pow_add ..
      _ ≤ 2 ^ 120 * m := Nat.mul_le_mul_left _ hlow
  have hn118 : 2 ^ 118 * m ≤ 2 ^ K :=
    calc 2 ^ 118 * m ≤ 2 ^ 118 * 2 ^ (Nat.log2 m + 1) := Nat.mul_le_mul_left _ hhigh.le
      _ = 2 ^ (118 + (Nat.log2 m + 1)) := (pow_add ..).symm
      _ ≤ 2 ^ K := Nat.pow_le_pow_right two_pos (by omega)
  obtain ⟨hsquare, hnext⟩ := sqrtFrom_spec (2 ^ K / m) 64 0 (Nat.zero_le _) (by
    rw [Nat.div_lt_iff_lt_mul hm]
    refine hn120.trans_lt (Nat.mul_lt_mul_of_pos_right ?_ hm)
    norm_num)
  rw [← hr, Nat.le_div_iff_mul_le hm] at hsquare
  rw [← hr, Nat.div_lt_iff_lt_mul hm] at hnext
  have horder (j : Nat) := sticky_order hm hsquare hnext j
  rw [← hA] at horder
  have hunit : (0 : ℚ) < 2 ^ (-k - 1) := zpow_pos two_pos _
  have hpoint (j : Nat) : (j : ℚ) * 2 ^ (-k) = (2 * j : Nat) * 2 ^ (-k - 1) := by
    rw [zpow_sub_one₀ two_ne_zero]
    push_cast
    ring
  have hpower (p : Nat) : ((2 ^ p : Nat) : ℚ) * 2 ^ (-k) = 2 ^ ((p : Int) - k) := by
    rw [Nat.cast_pow, Nat.cast_ofNat, ← zpow_natCast, ← zpow_add₀ two_ne_zero, sub_eq_add_neg]
  have hsquared (j : Nat) : ((j : ℚ) * 2 ^ (-k)) ^ 2 * ((m : ℚ) * 2 ^ e) = (j * j * m : Nat) / (2 ^ K : Nat) := by
    have hK' : ((2 ^ K : Nat) : ℚ) = 2 ^ (2 * k - e) := by rw [hK]; push_cast; exact (zpow_natCast 2 K).symm
    rw [hK', zpow_sub₀ two_ne_zero, two_mul, zpow_add₀ two_ne_zero, zpow_neg]
    have hk0 : (2 : ℚ) ^ k ≠ 0 := zpow_ne_zero _ two_ne_zero
    have he0 : (2 : ℚ) ^ e ≠ 0 := zpow_ne_zero _ two_ne_zero
    push_cast
    field_simp
  have hKpos : (0 : ℚ) < (2 ^ K : Nat) := by positivity
  have hseparates : Separates ((m : ℚ) * 2 ^ e) (A * 2 ^ (-k - 1)) k := fun j => by
    rw [hsquared, div_le_one hKpos, one_le_div hKpos, hpoint, mul_le_mul_iff_of_pos_right hunit,
      mul_le_mul_iff_of_pos_right hunit]
    exact_mod_cast horder j
  have hX59 : (2 : ℚ) ^ (59 - k) ≤ A * 2 ^ (-k - 1) := by
    have h := (horder (2 ^ 59)).1.mp (le_of_eq_of_le (by ring) hn118)
    have h' := hpower 59
    rw [hpoint] at h'
    rw [show (59 : Int) - k = ((59 : Nat) : Int) - k from rfl, ← h']
    exact mul_le_mul_of_nonneg_right (by exact_mod_cast h) hunit.le
  have hX60 : A * 2 ^ (-k - 1) ≤ (2 : ℚ) ^ (60 - k) := by
    have h := (horder (2 ^ 60)).2.mp (le_of_le_of_eq hn120 (by ring))
    have h' := hpower 60
    rw [hpoint] at h'
    rw [show (60 : Int) - k = ((60 : Nat) : Int) - k from rfl, ← h']
    exact mul_le_mul_of_nonneg_right (by exact_mod_cast h) hunit.le
  have hApos : 0 < A := by
    have h := lt_of_lt_of_le (zpow_pos two_pos _) hX59
    exact_mod_cast (mul_pos_iff_of_pos_right hunit).mp h
  refine ⟨k, A * 2 ^ (-k - 1), roundTo .double 0 false A 1 (-k - 1), hk, hroot, ?_, hseparates, hX59, hX60⟩
  have h := roundTo_signedValue false A (-k - 1) .double 0 hApos
  rwa [signedValue, if_neg Bool.false_ne_true, one_mul] at h

end Sys2Proof.Machine

namespace Sys2Proof.Machine

/-! ## The neighbours of a pattern -/

theorem valueOf_signed {n : Nat} (hn : n < 2 ^ 63) : valueOf (signed false n) = magnitudeValue n := by
  rw [valueOf_eq_magnitudeValue, signOf_signed false hn, magnitudeBits_signed false hn, if_neg Bool.false_ne_true, one_mul]

theorem signed_add_one {n : Nat} (hn : n + 1 < 2 ^ 63) : signed false n + 1 = signed false (n + 1) := by
  apply BitVec.eq_of_toNat_eq
  rw [BitVec.toNat_add, toNat_signed false (by omega), toNat_signed false hn]
  have hone : (1 : DWord).toNat = 1 := rfl
  simp only [hone, Bool.false_eq_true, if_false]
  omega

theorem signed_sub_one {n : Nat} (hn : n + 1 < 2 ^ 63) : signed false (n + 1) - 1 = signed false n := by
  rw [← signed_add_one hn]
  exact BitVec.add_sub_cancel ..

theorem getMsbD_signed_last {n : Nat} (hn : n < 2 ^ 63) (heven : n % 2 = 0) : (signed false n).getMsbD 63 = false := by
  have hodd : ¬ n % 2 = 1 := by omega
  rw [BitVec.getMsbD_eq_getLsbD]
  simp [BitVec.getLsbD, toNat_signed false hn, Nat.testBit_zero, hodd]

/-- R370's nearest binary64, for the pattern of `n + 1`, by the magnitudes of its neighbours. -/
theorem nearestEvenRoot_signed {b : DWord} {n : Nat} (hn : n + 2 < 2047 * 2 ^ 52) {below above : ℚ}
    (hbelow : below = (magnitudeValue n + magnitudeValue (n + 1)) / 2)
    (habove : above = (magnitudeValue (n + 1) + magnitudeValue (n + 2)) / 2)
    (hle : below ^ 2 * valueOf b ≤ 1) (hge : 1 ≤ above ^ 2 * valueOf b)
    (htie : below ^ 2 * valueOf b = 1 ∨ above ^ 2 * valueOf b = 1 → (n + 1) % 2 = 0) :
    nearestEvenRoot b (signed false (n + 1)) := by
  have hpos : 0 < magnitudeValue (n + 1) := by
    rw [← magnitudeValue_zero]
    exact magnitudeValue_strictMono (Nat.succ_pos n)
  unfold nearestEvenRoot
  rw [signed_sub_one (by omega), signed_add_one (by omega), valueOf_signed (by omega), valueOf_signed (by omega),
    valueOf_signed (by omega)]
  dsimp only
  rw [← hbelow, ← habove]
  refine ⟨?_, hpos, hle, hge, fun h => getMsbD_signed_last (by omega) (htie h)⟩
  rw [isFinite_iff, magnitudeBits_signed _ (by omega)]
  omega

/-! ## The rounding decides as the root would (R370) -/

/-- `Separates` for the multiples of any larger power of two. -/
theorem Separates.at {B X : ℚ} {k : Int} (h : Separates B X k) (i : Nat) {p : Int} (hp : -k ≤ p) :
    (((i : ℚ) * 2 ^ p) ^ 2 * B ≤ 1 ↔ (i : ℚ) * 2 ^ p ≤ X) ∧ (1 ≤ ((i : ℚ) * 2 ^ p) ^ 2 * B ↔ X ≤ (i : ℚ) * 2 ^ p) := by
  obtain ⟨d, hd⟩ := Int.eq_ofNat_of_zero_le (show 0 ≤ p + k by omega)
  have hpoint : (i : ℚ) * 2 ^ p = ((i * 2 ^ d : Nat) : ℚ) * 2 ^ (-k) := by
    have hp' : p = (d : Int) + -k := by omega
    rw [hp', zpow_add₀ two_ne_zero, zpow_natCast]
    push_cast
    ring
  rw [hpoint]
  exact h _

/-- The kept integer of a rounding to nearest even: the three points it turns on, and where the root lies among them. -/
structure NearestCut (B : ℚ) (up : Bool) (n : Nat) (q : Int) : Prop where
  le : ((n : ℚ) * 2 ^ q) ^ 2 * B ≤ 1
  ge : 1 ≤ (((n + 1 : Nat) : ℚ) * 2 ^ q) ^ 2 * B
  of_down : up = false → 1 ≤ (((n : ℚ) + 1 / 2) * 2 ^ q) ^ 2 * B
  of_up : up = true → (((n : ℚ) + 1 / 2) * 2 ^ q) ^ 2 * B ≤ 1
  tie : (((n : ℚ) + 1 / 2) * 2 ^ q) ^ 2 * B = 1 → (n + if up then 1 else 0) % 2 = 0

theorem nearestCut_of_separates {B X rem : ℚ} {k q : Int} {n : Nat} (h : Separates B X k) (hq : 1 - k ≤ q)
    (hX : X = (n + rem) * 2 ^ q) (h0 : 0 ≤ rem) (h1 : rem < 1) : NearestCut B (incOf 0 false n rem) n q := by
  have hpos : (0 : ℚ) < 2 ^ q := zpow_pos two_pos q
  have hhalf : ((n : ℚ) + 1 / 2) * 2 ^ q = ((2 * n + 1 : Nat) : ℚ) * 2 ^ (q - 1) := by
    rw [zpow_sub_one₀ two_ne_zero]
    push_cast
    ring
  have hmid := h.at (2 * n + 1) (p := q - 1) (by omega)
  rw [← hhalf, hX, mul_le_mul_iff_of_pos_right hpos, mul_le_mul_iff_of_pos_right hpos] at hmid
  obtain ⟨hmidLe, hmidGe⟩ := hmid
  have hinc : incOf 0 false n rem = (decide (1 / 2 < rem) || (decide (rem = 1 / 2) && decide ((n : Int) % 2 = 1))) := rfl
  refine ⟨(h.at n (by omega)).1.mpr ?_, (h.at (n + 1) (by omega)).2.mpr ?_, fun hup => hmidGe.mpr ?_, fun hup => hmidLe.mpr ?_,
    fun htie => ?_⟩
  · rw [hX]
    exact mul_le_mul_of_nonneg_right (by linarith) hpos.le
  · rw [hX]
    push_cast
    exact mul_le_mul_of_nonneg_right (by linarith) hpos.le
  · rw [hinc, Bool.or_eq_false_iff, decide_eq_false_iff_not, not_lt] at hup
    linarith [hup.1]
  · rw [hinc, Bool.or_eq_true, decide_eq_true_iff, Bool.and_eq_true, decide_eq_true_iff] at hup
    rcases hup with hup | hup
    · linarith
    · linarith [hup.1]
  · have hrem : rem = 1 / 2 := by linarith [hmidLe.mp htie.le, hmidGe.mp htie.ge]
    rw [hinc, hrem]
    by_cases hodd : (n : Int) % 2 = 1
    · simp [hodd]
      omega
    · simp [hodd]
      omega

/-- The bounds of R370 hold of both points next to the root. -/
theorem root_bounds {B v u : ℚ} {n : Nat} (hB : 0 < B) (hu : 0 < u) (hn : 2 ^ 52 ≤ n) (hle : ((n : ℚ) * u) ^ 2 * B ≤ 1)
    (hge : 1 ≤ (((n + 1 : Nat) : ℚ) * u) ^ 2 * B) (hv : v = n * u ∨ v = (n + 1 : Nat) * u) :
    (31 / 32) ^ 2 ≤ v ^ 2 * B ∧ v ^ 2 * B ≤ (33 / 32) ^ 2 := by
  have hn' : (2 : ℚ) ^ 52 ≤ n := by exact_mod_cast hn
  have hlow : 0 ≤ (n : ℚ) * u := by positivity
  have hstep : ((n + 1 : Nat) : ℚ) * u ≤ 33 / 32 * (n * u) := by
    rw [← mul_assoc]
    refine mul_le_mul_of_nonneg_right ?_ hu.le
    push_cast
    linarith
  have hstep' : 31 / 32 * (((n + 1 : Nat) : ℚ) * u) ≤ n * u := by linarith
  have hvlow : 31 / 32 * (((n + 1 : Nat) : ℚ) * u) ≤ v := by
    rcases hv with hv | hv <;> rw [hv]
    · exact hstep'
    · have : 0 ≤ ((n + 1 : Nat) : ℚ) * u := by positivity
      linarith
  have hvhigh : v ≤ 33 / 32 * (n * u) := by
    rcases hv with hv | hv <;> rw [hv]
    · linarith
    · exact hstep
  have hv0 : 0 ≤ v := le_trans (by positivity) hvlow
  constructor
  · calc (31 / 32 : ℚ) ^ 2 = (31 / 32) ^ 2 * 1 := (mul_one _).symm
      _ ≤ (31 / 32) ^ 2 * ((((n + 1 : Nat) : ℚ) * u) ^ 2 * B) := mul_le_mul_of_nonneg_left hge (by positivity)
      _ = (31 / 32 * (((n + 1 : Nat) : ℚ) * u)) ^ 2 * B := by ring
      _ ≤ v ^ 2 * B := mul_le_mul_of_nonneg_right (pow_le_pow_left₀ (by positivity) hvlow 2) hB.le
  · calc v ^ 2 * B ≤ (33 / 32 * (n * u)) ^ 2 * B := mul_le_mul_of_nonneg_right (pow_le_pow_left₀ hv0 hvhigh 2) hB.le
      _ = (33 / 32) ^ 2 * ((n * u) ^ 2 * B) := by ring
      _ ≤ (33 / 32) ^ 2 * 1 := mul_le_mul_of_nonneg_left hle (by positivity)
      _ = (33 / 32) ^ 2 := mul_one _

/-- What R370 asks of an estimate that sets no flag. -/
def RootBounds (b v : DWord) : Prop :=
  0 < valueOf v ∧ (31 / 32) ^ 2 ≤ valueOf v ^ 2 * valueOf b ∧ valueOf v ^ 2 * valueOf b ≤ (33 / 32) ^ 2

/-- Of a cut to binary64 that decides as the root does, the result is the nearest pattern. -/
theorem nearestEvenRoot_of_cut {b v : DWord} {up : Bool} {n t : Nat} (hb : 0 < valueOf b) (hn : 2 ^ 52 ≤ n) (hn' : n < 2 ^ 53)
    (ht : t ≤ 2044) (hcut : NearestCut (valueOf b) up n ((t : Int) - 1074)) (hs : v.getMsbD 0 = false)
    (hv : |valueOf v| = ((n : ℚ) + if up then 1 else 0) * 2 ^ ((t : Int) - 1074)) : nearestEvenRoot b v ∧ RootBounds b v := by
  have hunit : (0 : ℚ) < 2 ^ ((t : Int) - 1074) := zpow_pos two_pos _
  have hlattice : magnitudeValue (t * 2 ^ 52 + n) = n * 2 ^ ((t : Int) - 1074) := magnitudeValue_lattice hn'.le (.inr hn)
  have hnext : magnitudeValue (t * 2 ^ 52 + n + 1) = ((n + 1 : Nat) : ℚ) * 2 ^ ((t : Int) - 1074) := by
    rw [Nat.add_assoc]
    exact magnitudeValue_lattice (N := n + 1) hn' (.inr (by omega))
  have hmono (i : Nat) : magnitudeValue i < magnitudeValue (i + 1) := magnitudeValue_strictMono i.lt_succ_self
  have hsquare {x y : ℚ} (hx : 0 ≤ x) (hxy : x < y) : x ^ 2 * valueOf b < y ^ 2 * valueOf b :=
    mul_lt_mul_of_pos_right (pow_lt_pow_left₀ hxy hx two_ne_zero) hb
  obtain ⟨hle, hge, hdown, hup, htie⟩ := hcut
  cases up with
  | false =>
    rw [if_neg Bool.false_ne_true, add_zero] at hv
    have hvn : v = signed false (t * 2 ^ 52 + n) := eq_signed_of_value hs hn'.le (.inr hn) hv
    have hvalue : valueOf v = n * 2 ^ ((t : Int) - 1074) := by rw [hvn, valueOf_signed (by omega), hlattice]
    obtain ⟨M, hM⟩ : ∃ M, t * 2 ^ 52 + n = M + 1 := ⟨t * 2 ^ 52 + n - 1, by omega⟩
    rw [hM] at hlattice hnext hvn
    have hbelow : ((magnitudeValue M + magnitudeValue (M + 1)) / 2) ^ 2 * valueOf b < 1 := by
      refine (hsquare ?_ ?_).trans_le hle
      · linarith [magnitudeValue_nonneg M, magnitudeValue_nonneg (M + 1)]
      · rw [← hlattice]
        linarith [hmono M]
    have habove : ((n : ℚ) + 1 / 2) * 2 ^ ((t : Int) - 1074) = (magnitudeValue (M + 1) + magnitudeValue (M + 2)) / 2 := by
      rw [hlattice, hnext]
      push_cast
      ring
    refine ⟨?_, ?_, ?_⟩
    · rw [hvn]
      refine nearestEvenRoot_signed (by omega) rfl habove hbelow.le (hdown rfl) ?_
      rintro (h | h)
      · exact absurd h hbelow.ne
      · have := htie h
        simp at this
        omega
    · rw [hvalue]
      have : (0 : ℚ) < n := by exact_mod_cast (by omega : 0 < n)
      positivity
    · exact root_bounds hb hunit hn hle hge (.inl hvalue)
  | true =>
    rw [if_pos rfl, ← Nat.cast_succ] at hv
    have hvn : v = signed false (t * 2 ^ 52 + (n + 1)) := eq_signed_of_value hs hn' (.inr (by omega)) hv
    have hvalue : valueOf v = (n + 1 : Nat) * 2 ^ ((t : Int) - 1074) := by
      rw [hvn, valueOf_signed (by omega), ← Nat.add_assoc, hnext]
    have hbelow : ((n : ℚ) + 1 / 2) * 2 ^ ((t : Int) - 1074) =
        (magnitudeValue (t * 2 ^ 52 + n) + magnitudeValue (t * 2 ^ 52 + n + 1)) / 2 := by
      rw [hlattice, hnext]
      push_cast
      ring
    have habove : 1 < ((magnitudeValue (t * 2 ^ 52 + n + 1) + magnitudeValue (t * 2 ^ 52 + n + 2)) / 2) ^ 2 * valueOf b := by
      refine hge.trans_lt (hsquare (by positivity) ?_)
      have hlast : magnitudeValue (t * 2 ^ 52 + n + 1) < magnitudeValue (t * 2 ^ 52 + n + 2) := hmono _
      rw [← hnext]
      exact left_lt_add_div_two.mpr hlast
    refine ⟨?_, ?_, ?_⟩
    · rw [hvn, ← Nat.add_assoc]
      refine nearestEvenRoot_signed (by omega) hbelow rfl (hup rfl) habove.le ?_
      rintro (h | h)
      · have := htie h
        simp at this
        omega
      · exact absurd h habove.ne'
    · rw [hvalue]
      positivity
    · exact root_bounds hb hunit hn hle hge (.inr hvalue)

theorem nearestEvenRoot_of_separates {b : DWord} {X : ℚ} {k : Int} {r : FpResult} (hb : 0 < valueOf b)
    (h : Separates (valueOf b) X k) (hr : RoundsTo .double 0 X r) (hlow : 2 ^ (59 - k) ≤ X) (hmin : 2 ^ (-1022 : Int) ≤ X)
    (hmax : X ≤ 2 ^ (1000 : Int)) : nearestEvenRoot b r.value ∧ RootBounds b r.value := by
  have hXpos : 0 < X := lt_of_lt_of_le (zpow_pos two_pos _) hlow
  obtain ⟨n, rem, q, hcut, hcases⟩ := exists_cut hXpos.ne' hr
  have hsplit : X = (n + rem) * 2 ^ q := by rw [← hcut.split, abs_of_pos hXpos]
  have hpos : (0 : ℚ) < 2 ^ q := zpow_pos two_pos q
  have hnormal : (2 : ℚ) ^ (52 : Int) ≤ n := hcut.normal_of_le (by rw [abs_of_pos hXpos]; exact hmin)
  have hprecision : (n : ℚ) < 2 ^ (53 : Int) := hcut.lt
  have hleast : -1074 ≤ q := hcut.least
  have hn : 2 ^ 52 ≤ n := by exact_mod_cast hnormal
  have hn' : n < 2 ^ 53 := by exact_mod_cast hprecision
  have hnX : (n : ℚ) * 2 ^ q ≤ X := by
    rw [hsplit]
    exact mul_le_mul_of_nonneg_right (by linarith [hcut.rem_nonneg]) hpos.le
  have hXn : X ≤ 2 ^ (53 + q) := by
    rw [hsplit, zpow_add₀ two_ne_zero]
    refine mul_le_mul_of_nonneg_right ?_ hpos.le
    have hsucc : (n : ℚ) + 1 ≤ 2 ^ 53 := by exact_mod_cast hn'
    have h53 : (2 : ℚ) ^ (53 : Int) = 2 ^ 53 := rfl
    rw [h53]
    linarith [hcut.rem_lt_one]
  have hqlow : 59 - k ≤ 53 + q := (zpow_le_zpow_iff_right₀ one_lt_two).mp (hlow.trans hXn)
  have hqhigh : 52 + q ≤ 1000 := by
    refine (zpow_le_zpow_iff_right₀ (one_lt_two (α := ℚ))).mp (le_trans ?_ (hnX.trans hmax))
    rw [zpow_add₀ two_ne_zero]
    exact mul_le_mul_of_nonneg_right hnormal hpos.le
  have hneg : decide (X < 0) = false := decide_eq_false (not_lt.mpr hXpos.le)
  rw [hneg] at hcases
  have hnearest : NearestCut (valueOf b) (incOf 0 false n rem) n q :=
    nearestCut_of_separates h (by omega) hsplit hcut.rem_nonneg hcut.rem_lt_one
  obtain ⟨t, ht⟩ := Int.eq_ofNat_of_zero_le (show 0 ≤ q + 1074 by omega)
  obtain rfl : q = (t : Int) - 1074 := by omega
  rcases hcases with ⟨hover, -, -⟩ | ⟨-, -, hsign, hvalue⟩
  · have hsmall : cutValue 0 false n rem ((t : Int) - 1074) ≤ 2 ^ (1001 : Int) := by
      calc cutValue 0 false n rem ((t : Int) - 1074) ≤ ((n : ℚ) * 2) * 2 ^ ((t : Int) - 1074) := by
            refine mul_le_mul_of_nonneg_right ?_ hpos.le
            have hn1 : (1 : ℚ) ≤ n := by exact_mod_cast (by omega : 1 ≤ n)
            split <;> linarith
        _ = 2 * ((n : ℚ) * 2 ^ ((t : Int) - 1074)) := by ring
        _ ≤ 2 * 2 ^ (1000 : Int) := mul_le_mul_of_nonneg_left (hnX.trans hmax) two_pos.le
        _ = 2 ^ (1001 : Int) := by rw [← zpow_one_add₀ two_ne_zero]; rfl
    have hbig : (1024 : Int) ≤ 1001 := (zpow_le_zpow_iff_right₀ (one_lt_two (α := ℚ))).mp (hover.trans hsmall)
    omega
  · exact nearestEvenRoot_of_cut hb hn hn' (by omega) hnearest hsign hvalue

/-- The default of `frsqrte` is the root rounded to the nearest binary64, ties to even. -/
theorem recipSqrt_nearest {b : DWord} (hfin : isFinite b = true) (hb : 0 < valueOf b) :
    nearestEvenRoot b (recipSqrt (magOf b) (scaleOf b)) ∧ RootBounds b (recipSqrt (magOf b) (scaleOf b)) := by
  have hm := magOf_pos hb.ne'
  obtain ⟨k, X, r, hk, hroot, hround, hsep, hlow, hhigh⟩ := recipSqrt_separates hm (scaleOf b)
  have hvalue : (magOf b : ℚ) * 2 ^ scaleOf b = valueOf b := by rw [← abs_valueOf_eq_magOf, abs_of_pos hb]
  rw [hvalue] at hsep
  have hrange : -1074 ≤ (Nat.log2 (magOf b) : Int) + scaleOf b ∧ (Nat.log2 (magOf b) : Int) + scaleOf b ≤ 1023 := by
    have hexp : expOf b < 2047 := by
      rw [isFinite_iff] at hfin
      rw [expOf_eq_div]
      omega
    have hfrac : fracOf b < 2 ^ 52 := (b.extractLsb' 0 52).isLt
    have hmag : magOf b < 2 ^ 53 := by
      unfold magOf
      split <;> omega
    have hlog : Nat.log2 (magOf b) < 53 := (Nat.log2_lt hm.ne').mpr hmag
    unfold scaleOf
    split <;> omega
  rw [hroot]
  refine nearestEvenRoot_of_separates hb hsep hround hlow (le_trans ?_ hlow) (hhigh.trans ?_)
  · exact zpow_le_zpow_right₀ one_le_two (by omega)
  · exact zpow_le_zpow_right₀ one_le_two (by omega)

/-- R370's bound says what it is meant to. -/
theorem frsqrteInBound_bounds {b v : DWord} (hb : 0 < valueOf b) (h : frsqrteInBound v b = true) : RootBounds b v := by
  simp only [frsqrteInBound, Bool.and_eq_true, Bool.not_eq_true'] at h
  obtain ⟨⟨⟨⟨⟨-, -⟩, hzero⟩, hsign⟩, hlow⟩, hhigh⟩ := h
  have hv0 : valueOf v ≠ 0 := fun h0 => by
    rw [(isZero_iff_valueOf v).mpr h0] at hzero
    cases hzero
  have hvalue : valueOf v = (magOf v : ℚ) * 2 ^ scaleOf v := by
    rw [valueOf_parts, hsign, if_neg Bool.false_ne_true, one_mul]
  have hpos : 0 < valueOf v := by
    have hm : (0 : ℚ) < magOf v := by exact_mod_cast magOf_pos hv0
    rw [hvalue]
    positivity
  have hd : (0 : ℚ) < pow2Down (2 * scaleOf v + scaleOf b) := by exact_mod_cast pow2Down_pos _
  have hproduct : valueOf v ^ 2 * valueOf b =
      ((magOf v * magOf v * magOf b * pow2Up (2 * scaleOf v + scaleOf b) : Nat) : ℚ) /
        (pow2Down (2 * scaleOf v + scaleOf b) : ℚ) := by
    rw [scaled_product, hvalue, ← abs_of_pos hb, abs_valueOf_eq_magOf, zpow_add₀ two_ne_zero, two_mul,
      zpow_add₀ two_ne_zero]
    push_cast
    ring
  have hlow' : (961 * pow2Down (2 * scaleOf v + scaleOf b) : ℚ) ≤
      1024 * (magOf v * magOf v * magOf b * pow2Up (2 * scaleOf v + scaleOf b) : Nat) := by
    exact_mod_cast of_decide_eq_true hlow
  have hhigh' : (1024 * (magOf v * magOf v * magOf b * pow2Up (2 * scaleOf v + scaleOf b) : Nat) : ℚ) ≤
      1089 * pow2Down (2 * scaleOf v + scaleOf b) := by
    exact_mod_cast of_decide_eq_true hhigh
  refine ⟨hpos, ?_, ?_⟩
  · rw [hproduct, le_div_iff₀ hd]
    linarith
  · rw [hproduct, div_le_iff₀ hd]
    linarith

theorem frsqrteValue_default (b : DWord) : frsqrteValue .correctlyRounded b = recipSqrt (magOf b) (scaleOf b) := rfl

theorem frsqrteValue_bounds (mode : Estimate) {b : DWord} (hfin : isFinite b = true) (hb : 0 < valueOf b) :
    RootBounds b (frsqrteValue mode b) := by
  obtain ⟨-, hdefault⟩ := recipSqrt_nearest hfin hb
  unfold frsqrteValue
  cases mode with
  | correctlyRounded => exact hdefault
  | implementation =>
    dsimp only
    split
    · next h => exact frsqrteInBound_bounds hb h
    · exact hdefault

end Sys2Proof.Machine

namespace Sys2Proof

section

open Machine

/-! ## O54: the estimates -/

/-- Settles O54: the special values are branches of the two functions; the reciprocal is one rounding or within R369's bound; the root
is what the model rounds instead, or within R370's. -/
theorem estimates : Obligations.Estimates := by
  intro mode rn b hnan
  refine ⟨fun h => ?_, fun h => ?_, fun h => ?_, fun h => ?_, fun hs h => ?_, fun hfin hb => ?_, fun hfin hb => ?_⟩
  · rw [h]
    exact ⟨rfl, rfl⟩
  · rw [h]
    exact ⟨rfl, rfl⟩
  · have hinf : isInf b = true := by rw [isInf_eq_not_isFinite hnan, h, Bool.not_false]
    rw [fpRes_of_not_nan rn mode hnan, isZero_of_isInf hinf, hinf]
    exact isExactZero_zero _
  · rw [h]
    rfl
  · have hzero : ¬ isZero b = true := fun hz => h ((eq_zero_of_isZero hz).trans (congrArg zero hs))
    rw [fpRsqrte_of_not_nan mode hnan, if_neg hzero, if_pos (show signOf b = true from hs)]
    rfl
  · have hzero : ¬ isZero b = true := fun hz => hb ((isZero_iff_valueOf b).mp hz)
    rw [fpRes_of_not_nan rn mode hnan, if_neg hzero, isInf_of_isFinite hfin]
    refine ⟨_, reciprocal_roundsTo rn hb, rfl, rfl, rfl, fun hm => ?_, ?_, fun hox hle => ?_⟩
    · rw [hm]
      rfl
    · rcases fresValue_cases mode rn b with hv | hv
      · exact .inl hv
      · exact .inr (fresInBound_error hb hv)
    · rcases fresValue_cases mode rn b with hv | hv
      · change isFinite (fresValue mode rn b) = true ∧ |valueOf (fresValue mode rn b) * valueOf b - 1| ≤ 1 / 256
        rw [hv]
        exact reciprocal_error hb (reciprocal_roundsTo rn hb) hox hle
      · exact fresInBound_error hb hv
  · have hzero : ¬ isZero b = true := fun hz => hb.ne' ((isZero_iff_valueOf b).mp hz)
    have hsign : signOf b = false := by
      cases hs : signOf b
      · rfl
      · rw [valueOf_eq_magnitudeValue, hs, if_pos rfl] at hb
        rw [neg_one_mul, neg_pos] at hb
        exact absurd hb (not_lt.mpr (magnitudeValue_nonneg _))
    have hvalue : fpRsqrte mode b = exactResult (frsqrteValue mode b) := by
      rw [fpRsqrte_of_not_nan mode hnan, if_neg hzero, hsign, isInf_of_isFinite hfin, if_neg Bool.false_ne_true,
        if_neg Bool.false_ne_true]
    rw [hvalue, exactResult]
    refine ⟨fun hm => ?_, rfl, rfl, rfl, frsqrteValue_bounds mode hfin hb⟩
    change nearestEvenRoot b (frsqrteValue mode b)
    rw [hm, frsqrteValue_default]
    exact (recipSqrt_nearest hfin hb).1

end

end Sys2Proof

/-! PROOFS of the family 46_floating_point_load_store.md: the loads and stores (R420 to R439) and the two conversions they make (R421,
R422). The loads and stores are accesses as in family 43. DOUBLE is `doubleBits` of the fields of a binary32 pattern; here SINGLE is
`singleBits` of the 63 bits under the sign of a binary64 pattern, and `singleBits` undoes `doubleBits`. -/

namespace Sys2Proof.Machine

/-! ## How a floating-point load completes (R420) -/

section

variable (u : State) (base : Option GprNum) (ea : Word) (frd : FprNum) (v : DWord)

theorem floatLoadOnly_load : floatLoadOnly u ((u.setFpr frd v).updateBase base ea).completed := by
  cases base with
  | none | some => exact ⟨rfl, fun _ => rfl⟩

/-- The base register of an update form is a general one, so FRD keeps the value. -/
theorem onlyFpr_load {s : State} (hs : u.fprs = s.fprs) : onlyFpr frd v s ((u.setFpr frd v).updateBase base ea).completed :=
  onlyFpr_of_fprs ((updateBase_fprs _ base ea).trans (congrArg (·.set frd.toNat v frd.isLt) hs))

end

/-! ## SINGLE by the 63 bits (R422) -/

/-- The 31 bits of SINGLE (R422) from the 63 bits of a binary64 pattern: bits 1 and 5 to 34 as they stand, or the significand shifted
right, or nothing. -/
def singleBits (n : Nat) : Nat :=
  if 896 < n / 2 ^ 52 ∨ n = 0 then n / 2 ^ 62 * 2 ^ 30 + n / 2 ^ 29 % 2 ^ 30
  else if 874 ≤ n / 2 ^ 52 then (2 ^ 52 + n % 2 ^ 52) / 2 ^ (897 - n / 2 ^ 52) / 2 ^ 29
  else 0

/-- The significand has 53 bits, of which at least the last 30 are cut off. -/
theorem shifted_significand_lt (n : Nat) {k : Nat} (hk : 0 < k) : (2 ^ 52 + n % 2 ^ 52) / 2 ^ k / 2 ^ 29 < 2 ^ 23 := by
  have hhalf : (2 ^ 52 + n % 2 ^ 52) / 2 ^ k ≤ (2 ^ 52 + n % 2 ^ 52) / 2 ^ 1 :=
    Nat.div_le_div_left (Nat.pow_le_pow_right two_pos hk) two_pos
  omega

theorem singleBits_lt {n : Nat} (hn : n < 2 ^ 63) : singleBits n < 2 ^ 31 := by
  unfold singleBits
  split
  · omega
  · split
    · next hlit _ => exact (shifted_significand_lt n (by omega)).trans (by norm_num)
    · norm_num

/-- Bit 1 of a binary64 pattern as the word SINGLE puts it in, over the 30 bits from bit 5 on. -/
theorem literal_bits (d : DWord) :
    (if d.getMsbD 1 then (0x40000000 : Word) else 0) ||| (d.extractLsb' 29 30).setWidth 32 =
      BitVec.ofNat 32 (magnitudeBits d / 2 ^ 62 * 2 ^ 30 + magnitudeBits d / 2 ^ 29 % 2 ^ 30) := by
  have hd := magnitudeBits_lt d
  have hbit : d.getMsbD 1 = decide (magnitudeBits d / 2 ^ 62 = 1) := by
    rw [BitVec.getMsbD, BitVec.getLsbD, Nat.testBit_eq_decide_div_mod_eq, magnitudeBits]
    simp only [Nat.reduceLT, decide_true, Bool.true_and, Nat.reduceSub, decide_eq_decide]
    omega
  have hlow : ((d.extractLsb' 29 30).setWidth 32).toNat = magnitudeBits d / 2 ^ 29 % 2 ^ 30 := by
    rw [BitVec.toNat_setWidth, BitVec.extractLsb'_toNat, Nat.shiftRight_eq_div_pow, magnitudeBits]
    omega
  have hlt : magnitudeBits d / 2 ^ 29 % 2 ^ 30 < 2 ^ 30 := Nat.mod_lt _ (Nat.two_pow_pos 30)
  apply BitVec.eq_of_toNat_eq
  rw [BitVec.toNat_or, hlow, BitVec.toNat_ofNat, hbit]
  generalize magnitudeBits d / 2 ^ 29 % 2 ^ 30 = low at hlt
  obtain h | h : magnitudeBits d / 2 ^ 62 = 0 ∨ magnitudeBits d / 2 ^ 62 = 1 := by omega
  · rw [h, Nat.mod_eq_of_lt (by omega), Nat.zero_mul, Nat.zero_add]
    exact Nat.zero_or low
  · rw [h, Nat.mod_eq_of_lt (by omega)]
    exact (Nat.two_pow_add_eq_or_of_lt hlt 1).symm

/-- The test of a zero in SINGLE. -/
theorem and_magnitudeMask_eq_zero_iff (d : DWord) : d &&& 0x7FFFFFFFFFFFFFFF = 0 ↔ magnitudeBits d = 0 := by
  rw [← BitVec.toNat_inj, BitVec.toNat_and]
  exact iff_of_eq (congrArg (· = 0) (Nat.and_two_pow_sub_one_eq_mod d.toNat 63))

theorem toSingle_eq_singlePattern (d : DWord) : toSingle d = singlePattern (signOf d) (singleBits (magnitudeBits d)) := by
  unfold toSingle singleBits
  simp only [and_magnitudeMask_eq_zero_iff, expOf_eq_div, fracOf_eq_mod]
  split
  · rw [BitVec.or_assoc, literal_bits, singlePattern]
  · split
    · rfl
    · exact BitVec.or_zero.symm

/-- SINGLE keeps the sign; the other bits are `singleBits`. -/
theorem toSingle_parts (d : DWord) :
    (toSingle d).getMsbD 0 = d.getMsbD 0 ∧ (toSingle d).toNat % 2 ^ 31 = singleBits (magnitudeBits d) := by
  have hlt := singleBits_lt (magnitudeBits_lt d)
  rw [toSingle_eq_singlePattern]
  refine ⟨(singlePattern_fields _ hlt).1, ?_⟩
  rw [toNat_singlePattern _ hlt]
  split
  all_goals omega

/-- Where SINGLE takes bits as they stand, it takes 0, 1 and 5 to 34. -/
theorem getMsbD_toSingle_of_literal {d : DWord} (h : 896 < expOf d ∨ magnitudeBits d = 0) {k : Nat} (hk : k < 32) :
    (toSingle d).getMsbD k = d.getMsbD (if k < 2 then k else k + 3) := by
  have hsign : (if signOf d then (0x80000000 : Word) else 0).getMsbD k = (decide (k = 0) && d.getMsbD 0) := by
    change (if signOf d then bitMask 0 else 0).getMsbD k = (decide (k = 0) && signOf d)
    cases signOf d <;> simp [getMsbD_bitMask]
  have hone : (if d.getMsbD 1 then (0x40000000 : Word) else 0).getMsbD k = (decide (k = 1) && d.getMsbD 1) := by
    change (if d.getMsbD 1 then bitMask 1 else 0).getMsbD k = _
    cases d.getMsbD 1 <;> simp [getMsbD_bitMask]
  have hlow : ((d.extractLsb' 29 30).setWidth 32).getMsbD k = (decide (2 ≤ k) && d.getMsbD (k + 3)) := by
    have hplace : 29 + (31 - k) = 60 - k := by omega
    have hin : 31 - k < 30 ↔ 2 ≤ k := by omega
    have hwidth : 31 - k < 32 ∧ k + 3 < 64 := by omega
    simp [BitVec.getMsbD, hk, hplace, hin, hwidth]
  rw [toSingle, if_pos (by rwa [and_magnitudeMask_eq_zero_iff]), BitVec.getMsbD_or, BitVec.getMsbD_or, hsign, hone, hlow]
  rcases k with _ | _ | k
  all_goals simp

/-! ## DOUBLE and back (R421) -/

/-- A binary32 pattern is its sign over its two fields. -/
theorem eq_singlePattern (w : Word) :
    w = singlePattern (w.getMsbD 0) ((w.extractLsb' 23 8).toNat * 2 ^ 23 + (w.extractLsb' 0 23).toNat) := by
  have hw := w.isLt
  apply BitVec.eq_of_toNat_eq
  rw [← BitVec.msb_eq_getMsbD_zero, BitVec.msb_eq_decide, BitVec.extractLsb'_toNat, BitVec.extractLsb'_toNat,
    toNat_singlePattern _ (by omega), Nat.shiftRight_eq_div_pow, Nat.shiftRight_zero]
  by_cases h : 2 ^ 31 ≤ w.toNat
  · rw [decide_eq_true h, if_pos rfl]
    omega
  · rw [decide_eq_false h, if_neg Bool.false_ne_true]
    omega

theorem singleBits_doubleBits {e f : Nat} (he : e < 2 ^ 8) (hf : f < 2 ^ 23) : singleBits (doubleBits e f) = e * 2 ^ 23 + f := by
  have hliteral {n : Nat} (h : 896 < n / 2 ^ 52) : singleBits n = n / 2 ^ 62 * 2 ^ 30 + n / 2 ^ 29 % 2 ^ 30 :=
    if_pos (.inl h)
  unfold doubleBits
  split
  · rw [hliteral (by omega)]
    omega
  · split
    · rw [hliteral (by omega)]
      omega
    · split
      · have hzero : singleBits 0 = 0 := rfl
        omega
      · next h0 =>
        have hlog : Nat.log2 f < 23 := (Nat.log2_lt h0).mpr hf
        have hbounds := shifted_bounds h0 hf
        have hback : f * 2 ^ (23 - Nat.log2 f) / 2 ^ (23 - Nat.log2 f) = f := Nat.mul_div_cancel _ (Nat.two_pow_pos _)
        have hshift : 897 - (874 + Nat.log2 f) = 23 - Nat.log2 f := by omega
        generalize f * 2 ^ (23 - Nat.log2 f) = m at hbounds hback
        have hexp : ((874 + Nat.log2 f) * 2 ^ 52 + (m - 2 ^ 23) * 2 ^ 29) / 2 ^ 52 = 874 + Nat.log2 f := by omega
        have hfrac : 2 ^ 52 + ((874 + Nat.log2 f) * 2 ^ 52 + (m - 2 ^ 23) * 2 ^ 29) % 2 ^ 52 = m * 2 ^ 29 := by omega
        rw [singleBits, hexp, hfrac, if_neg (by omega), if_pos (by omega), hshift, Nat.div_right_comm,
          Nat.mul_div_cancel _ (Nat.two_pow_pos 29), hback]
        omega

theorem toSingle_toDouble (w : Word) : toSingle (toDouble w) = w := by
  have he := (w.extractLsb' 23 8).isLt
  have hf := (w.extractLsb' 0 23).isLt
  have hlt := doubleBits_lt he hf
  rw [toSingle_eq_singlePattern, toDouble_eq_signed, signOf_signed _ hlt, magnitudeBits_signed _ hlt, singleBits_doubleBits he hf]
  exact (eq_singlePattern w).symm

theorem getMsbD_zero_toDouble (w : Word) : (toDouble w).getMsbD 0 = w.getMsbD 0 := by
  rw [toDouble_eq_signed]
  exact signOf_signed _ (doubleBits_lt (BitVec.isLt _) (BitVec.isLt _))

theorem magnitudeBits_toDouble (w : Word) :
    magnitudeBits (toDouble w) = doubleBits (w.extractLsb' 23 8).toNat (w.extractLsb' 0 23).toNat := by
  rw [toDouble_eq_signed, magnitudeBits_signed _ (doubleBits_lt (BitVec.isLt _) (BitVec.isLt _))]

theorem doubleBits_lt_infinity_iff {e f : Nat} (he : e < 2 ^ 8) (hf : f < 2 ^ 23) : doubleBits e f < 2047 * 2 ^ 52 ↔ e ≠ 255 := by
  unfold doubleBits
  split
  · omega
  · next hfin =>
    refine iff_of_true ?_ hfin
    split
    · omega
    · split
      · norm_num
      · next h0 =>
        have hlog : Nat.log2 f < 23 := (Nat.log2_lt h0).mpr hf
        have hbounds := shifted_bounds h0 hf
        generalize f * 2 ^ (23 - Nat.log2 f) = m at hbounds
        omega

theorem isFinite_toDouble_iff (w : Word) : isFinite (toDouble w) = true ↔ (w.extractLsb' 23 8).toNat ≠ 255 := by
  rw [isFinite_iff, magnitudeBits_toDouble, doubleBits_lt_infinity_iff (BitVec.isLt _) (BitVec.isLt _)]

/-- The fields of a binary32 pattern as a significand of up to 24 bits and its weight. -/
theorem exists_singleLattice (e : Nat) {f : Nat} (hf : f < 2 ^ 23) :
    ∃ t N, t * 2 ^ 23 + N = e * 2 ^ 23 + f ∧ N < 2 ^ 24 ∧ (t = 0 ∨ 2 ^ 23 ≤ N) :=
  ⟨e - 1, e * 2 ^ 23 + f - (e - 1) * 2 ^ 23, by omega, by omega, by omega⟩

/-- The magnitude of a binary32 pattern on binary32's lattice: the value of a denormal has the weight of the least normal's. -/
theorem valueOfSingle_lattice {w : Word} {t N : Nat}
    (hw : t * 2 ^ 23 + N = (w.extractLsb' 23 8).toNat * 2 ^ 23 + (w.extractLsb' 0 23).toNat) (hN : N < 2 ^ 24)
    (ht : t = 0 ∨ 2 ^ 23 ≤ N) :
    valueOfSingle w = (if w.getMsbD 0 then -1 else 1) * (N * 2 ^ ((t : Int) - 149)) := by
  have hf := (w.extractLsb' 0 23).isLt
  rw [valueOfSingle]
  generalize (w.extractLsb' 23 8).toNat = e at hw
  generalize (w.extractLsb' 0 23).toNat = f at hw hf
  congr 1
  split
  · next h0 =>
    obtain ⟨rfl, rfl⟩ : t = 0 ∧ N = f := by omega
    rfl
  · next h0 =>
    obtain ⟨rfl, rfl⟩ : e = t + 1 ∧ N = 2 ^ 23 + f := by omega
    have hexp : ((t + 1 : Nat) : Int) - 127 = ((t : Int) - 149) + 23 := by omega
    rw [hexp, zpow_add₀ two_ne_zero]
    push_cast
    ring

theorem valueOf_toDouble {w : Word} (h : (w.extractLsb' 23 8).toNat ≠ 255) : valueOf (toDouble w) = valueOfSingle w := by
  have he := (w.extractLsb' 23 8).isLt
  have hf := (w.extractLsb' 0 23).isLt
  obtain ⟨t, N, hw, hN, ht⟩ := exists_singleLattice (w.extractLsb' 23 8).toNat hf
  have hmagnitude := (toDouble_lattice (w.getMsbD 0) hN.le ht (by omega)).2
  rw [hw, ← eq_singlePattern, abs_valueOf] at hmagnitude
  rw [valueOf_eq_magnitudeValue, hmagnitude, valueOfSingle_lattice hw hN ht, signOf, getMsbD_zero_toDouble]

/-- The fraction of an infinity or a NaN stands on top of the fraction of its DOUBLE. -/
theorem fraction_toDouble {w : Word} (h : (w.extractLsb' 23 8).toNat = 255) :
    (toDouble w).extractLsb' 29 23 = w.extractLsb' 0 23 ∧ (toDouble w).extractLsb' 0 29 = 0 := by
  have hmagnitude := magnitudeBits_toDouble w
  have hf := (w.extractLsb' 0 23).isLt
  rw [h, doubleBits, if_pos rfl, magnitudeBits] at hmagnitude
  constructor
  · apply BitVec.eq_of_toNat_eq
    rw [BitVec.extractLsb'_toNat, Nat.shiftRight_eq_div_pow]
    omega
  · apply BitVec.eq_of_toNat_eq
    rw [BitVec.extractLsb'_toNat, Nat.shiftRight_zero]
    change _ = 0
    omega

end Sys2Proof.Machine

namespace Sys2Proof

section

open Machine

/-! ## O32, O33: the loads and the stores -/

/-- Settles O32: the one access completes with the value of the form in FRD, then EA in the base register. -/
theorem floatLoads : Obligations.FloatLoads := by
  intro i s f h ha hp
  exact ⟨_, (oneAccess_of_floatLoadForm h).completes ha hp, floatLoadOnly_load .., onlyFpr_load _ _ _ _ _ (atCall_fprs s),
    baseUpdated_updateBase _ _ _ (atCall_gprs s)⟩

/-- Settles O33: the one access completes with the bytes of the form stored. -/
theorem floatStores : Obligations.FloatStores := fun _ _ _ h => (runsStore_of_floatStoreForm h).ends

/-! ## O59: the conversions -/

/-- Settles O59: DOUBLE by its fields, SINGLE by the 63 bits. -/
theorem singleDouble : Obligations.SingleDouble := by
  refine ⟨fun w => ⟨toSingle_toDouble w, getMsbD_zero_toDouble w, fun h => ⟨(isFinite_toDouble_iff w).mpr h, valueOf_toDouble h⟩,
    fun h => ⟨?_, fraction_toDouble h⟩⟩, fun d => ?_⟩
  · exact Bool.eq_false_iff.mpr fun hfin => (isFinite_toDouble_iff w).mp hfin h
  · obtain ⟨hsign, hbits⟩ := toSingle_parts d
    change if 896 < expOf d ∨ magnitudeBits d = 0 then _ else if 874 ≤ expOf d then
      _ ∧ _ = (2 ^ 52 + fracOf d) / 2 ^ (897 - expOf d) / 2 ^ 29 else _
    rw [singleBits, ← expOf_eq_div, ← fracOf_eq_mod] at hbits
    split
    · next hlit => exact fun k hk => getMsbD_toSingle_of_literal hlit hk
    · next hlit =>
      rw [if_neg hlit] at hbits
      split
      · next hden => exact ⟨hsign, hbits.trans (if_pos hden)⟩
      · next hden => exact ⟨hsign, hbits.trans (if_neg hden)⟩

end

end Sys2Proof

/-! PROOFS of the family 47_branch_unit.md: the moves into CR (R324, R464, R466), the eight CR logical instructions (R456 to R463)
and the branches (R451 to R455, R467). A move into CR is one field or one mask, bit by bit. For the branches the model's words, the
targets and CTR after the count, are written as the exact integers they stand for; one ending then serves the three conditional
branches. -/

namespace Sys2Proof.Machine

/-! ## Fields copied between registers (R324, R464, R466) -/

/-- Field `f` of one register put into field `d` of another. -/
theorem getMsbD_putField_getField (w v : Word) (d f : CrField) (k : Nat) :
    (putField w d (getField v f)).getMsbD k =
      if k / 4 = d.toNat then v.getMsbD (4 * f.toNat + k % 4) else w.getMsbD k := by
  rw [getMsbD_putField, getMsbD_getField _ _ _ (Nat.mod_lt k (by decide))]

/-- A bit of `v` where a mask selects its field, of `w` elsewhere. -/
theorem getMsbD_selectFields (v w : Word) (m : BitVec 8) {k : Nat} (hk : k < 32) :
    ((v &&& fieldsMask m) ||| (w &&& ~~~ (fieldsMask m))).getMsbD k = if m.getMsbD (k / 4) then v.getMsbD k else w.getMsbD k := by
  rw [BitVec.getMsbD_or, BitVec.getMsbD_and, BitVec.getMsbD_and, BitVec.getMsbD_not, getMsbD_fieldsMask, decide_eq_true hk]
  cases m.getMsbD (k / 4) <;> simp

/-- The four upper bits cleared (R324). -/
theorem getMsbD_clearUpper (w : Word) {k : Nat} (hk : k < 32) :
    (w &&& 0x0FFFFFFF).getMsbD k = (decide (4 ≤ k) && w.getMsbD k) := by
  have hmask : ∀ k, k < 32 → (0x0FFFFFFF : Word).getMsbD k = decide (4 ≤ k) := by decide
  rw [BitVec.getMsbD_and, hmask k hk, Bool.and_comm]

/-! ## Branch targets as integers (R451 to R455) -/

/-- A field with two zero bits below it, sign-extended, is four times the integer that the field stands for. -/
theorem signExtend_append_zeros {n : Nat} (hn : n ≠ 0) (d : BitVec n) :
    (d ++ (0 : BitVec 2)).signExtend 32 = BitVec.ofInt 32 (4 * d.toInt) := by
  have hvalue : (d ++ (0 : BitVec 2)).toInt = 4 * d.toInt := by
    rw [BitVec.toInt_append, if_neg (by simpa using hn)]
    exact add_zero _
  rw [BitVec.signExtend, hvalue]

theorem displacementI_eq_ofInt (li : BitVec 24) : displacementI li = BitVec.ofInt 32 (4 * li.toInt) :=
  signExtend_append_zeros (by decide) li

theorem displacementB_eq_ofInt (bd : BitVec 14) : displacementB bd = BitVec.ofInt 32 (4 * bd.toInt) :=
  signExtend_append_zeros (by decide) bd

theorem branchTarget_ofInt (s : State) (n : Int) (aa : Bool) :
    s.branchTarget (BitVec.ofInt 32 n) aa = BitVec.ofInt 32 ((if aa then 0 else s.pc.toInt) + n) := by
  cases aa
  · exact ((BitVec.ofInt_add ..).trans (congrArg (· + BitVec.ofInt 32 n) BitVec.ofInt_toInt)).symm
  · exact congrArg (BitVec.ofInt 32) (zero_add n).symm

/-- Clearing the low two bits rounds down to a multiple of 4. -/
theorem registerTarget_eq_ofNat (r : Word) : registerTarget r = BitVec.ofNat 32 (r.toNat / 4 * 4) := by
  have hmask : (0xFFFFFFFC : Word) = BitVec.allOnes 32 <<< 2 := by decide
  apply BitVec.eq_of_toNat_eq
  rw [registerTarget, hmask, ← BitVec.shiftLeft_ushiftRight, BitVec.toNat_shiftLeft, BitVec.toNat_ushiftRight,
    Nat.shiftLeft_eq, Nat.shiftRight_eq_div_pow, BitVec.toNat_ofNat]

/-! ## CTR and the decision (R467) -/

/-- CTR after the evaluation of BO does not depend on whether the branch is taken. -/
theorem branchCtr_eq_ofInt (s : State) (bo : BitVec 5) :
    s.branchCtr bo = if bo.getMsbD 2 then s.ctr else BitVec.ofInt 32 (s.ctr.toInt - 1) :=
  congrArg (ite _ s.ctr) (ofInt_toInt_sub s.ctr 1).symm

/-- The test of CTR and the test of the CR bit, each unless BO says to leave it out. -/
theorem branchTaken_eq (s : State) (bo : BitVec 5) (bi : CrBit) :
    s.branchTaken bo bi =
      ((bo.getMsbD 2 || if bo.getMsbD 3 then decide (s.branchCtr bo = 0) else decide (s.branchCtr bo ≠ 0)) &&
        (bo.getMsbD 0 || decide (s.cr.getMsbD bi.toNat = bo.getMsbD 1))) := by
  rw [State.branchTaken, getBit, Bool.beq_eq_decide_eq]
  cases bo.getMsbD 3
  · rw [Bool.xor_false, if_neg Bool.false_ne_true]
  · rw [Bool.xor_true, if_pos rfl, decide_not, Bool.not_not]

end Sys2Proof.Machine

namespace Sys2Proof

section

open Machine

/-! ## O41, O42: the moves into CR and its logic -/

/-- Settles O41: each new CR is a field or a mask of fields of another register in the old one. -/
theorem conditionMoves : Obligations.ConditionMoves := by
  refine ⟨fun d f z9 z14 z16 z31 s => ?_, fun rs z11 z20 z31 m s => ?_, fun d z9 z11 z16 z31 s => ?_⟩
  · exact ⟨_, rfl, ⟨rfl, fun _ => rfl⟩, fun k _ => getMsbD_putField_getField ..⟩
  · exact ⟨_, rfl, ⟨rfl, fun _ => rfl⟩, fun k hk => getMsbD_selectFields _ _ m hk⟩
  · refine ⟨_, rfl, ⟨rfl, fun _ => rfl⟩, fun _ => rfl, fun k _ => ?_, fun k hk => getMsbD_clearUpper _ hk⟩
    have hcopy := getMsbD_putField_getField s.cr s.xer d 0 k
    have hfirst : 4 * (0 : CrField).toNat + k % 4 = k % 4 := Nat.zero_add _
    rwa [hfirst] at hcopy

/-- Settles O42: the eight share the ending that writes one bit. -/
theorem conditionLogic : Obligations.ConditionLogic := by
  intro d a b z s
  exact ⟨finishCrBit_ends .., finishCrBit_ends .., finishCrBit_ends .., finishCrBit_ends .., finishCrBit_ends ..,
    finishCrBit_ends .., finishCrBit_ends .., finishCrBit_ends ..⟩

/-! ## O43: the branches -/

/-- Settles O43: the three conditional branches end in one way and differ in the target. -/
theorem branches : Obligations.Branches := by
  intro li bo bi bd z16 aa lk s ctr' ctrOk condOk ends
  have hctr : s.branchCtr bo = ctr' := branchCtr_eq_ofInt s bo
  have htaken : s.branchTaken bo bi = (ctrOk && condOk) := by
    rw [branchTaken_eq, hctr]
  have hconditional {i : Instr} {target : Word} (hi : exec i s = branchConditional target bo bi lk s) :
      Ends i s (ends target ctr' (ctrOk && condOk)) := by
    rw [← htaken, ← hctr]
    exact ⟨_, hi.trans (branchConditional_eq ..), rfl⟩
  rw [← branchTarget_ofInt, ← branchTarget_ofInt, ← displacementI_eq_ofInt, ← displacementB_eq_ofInt,
    ← registerTarget_eq_ofNat, ← registerTarget_eq_ofNat]
  refine ⟨⟨_, rfl, ?_⟩, hconditional rfl, hconditional rfl, hconditional rfl⟩
  cases lk <;> rfl

end

end Sys2Proof

/-! PROOFS of the families 48_system_unit.md, 49_unimplemented.md and 60_exceptions.md: the system call and the return (R491, R492),
the instructions that do nothing (R493 to R502), the ten unimplemented ones (R519), and that MSR steers nothing (R504, R560). The
masks of the first two are read bit by bit, once each. For the last, giving MSR another value commutes with each shared operation,
and so with every instruction that ends in one of them. -/

namespace Sys2Proof.Machine

/-! ## The bits that `sc` and `rfi` move (R491, R492) -/

/-- The bits of MSR that SRR1 saves, 16:23, 25:27 and 30:31 (R491). -/
abbrev savedBits : List Nat := [16, 17, 18, 19, 20, 21, 22, 23, 25, 26, 27, 30, 31]

/-- The mask of `sc` and `rfi` is those bits. -/
theorem getMsbD_savedMask {k : Nat} (hk : k < 32) :
    (0x0000FF73 : Word).getMsbD k = decide (k ∈ savedBits) := by
  revert k
  decide

/-- MSR after the system call: LE from ILE, eleven bits cleared, the others kept. -/
theorem getMsbD_systemCallMsr (msr : Word) {k : Nat} (hk : k < 32) :
    (systemCallMsr msr).getMsbD k =
      if k = 31 then msr.getMsbD 15
      else if k ∈ [13, 16, 17, 18, 20, 21, 22, 23, 26, 27, 30] then false else msr.getMsbD k := by
  have hcleared : ∀ k, k < 32 →
      (0x0004EF32 : Word).getMsbD k = decide (k ∈ [13, 16, 17, 18, 20, 21, 22, 23, 26, 27, 30]) := by decide
  have hone : ∀ k, k < 32 → (1 : Word).getMsbD k = decide (k = 31) := by decide
  rw [systemCallMsr, BitVec.getMsbD_or, BitVec.getMsbD_and, BitVec.getMsbD_and, BitVec.getMsbD_and, BitVec.getMsbD_not,
    BitVec.getMsbD_not, BitVec.getMsbD_ushiftRight, hcleared k hk, hone k hk, decide_eq_true hk]
  by_cases h31 : k = 31
  · subst h31
    simp
  · simp [h31, Bool.and_comm]

/-- The bits of one word where SRR1's mask selects them, of another elsewhere (R492). -/
theorem getMsbD_restoredMsr (msr srr1 : Word) {k : Nat} (hk : k < 32) :
    ((msr &&& 0xFFFF008C) ||| (srr1 &&& 0x0000FF73)).getMsbD k =
      if k ∈ savedBits then srr1.getMsbD k else msr.getMsbD k := by
  have hkept : (0xFFFF008C : Word) = ~~~ 0x0000FF73 := by decide
  rw [hkept, BitVec.getMsbD_or, BitVec.getMsbD_and, BitVec.getMsbD_and, BitVec.getMsbD_not, decide_eq_true hk,
    getMsbD_savedMask hk]
  split
  · next h => simp [h]
  · next h => simp [h]

/-! ## Another MSR (R560) -/

/-- The state with another MSR. -/
def State.withMsr (m : Word) (s : State) : State := { s with msr := m }

/-- What a meaning answers, with another MSR in its next state. -/
def nextWithMsr (m : Word) : Result → Result
  | .next t => .next (t.withMsr m)
  | r => r

section Operations

variable (m : Word) (s : State)

/-! ### Operations of the port -/

theorem atCall_withMsr : (s.withMsr m).atCall = s.atCall.withMsr m := by
  rw [atCall_congr (s := s) (t := s.withMsr m) rfl rfl rfl, atCall_fields s]
  rfl

theorem withMsr_port : (s.withMsr m).port = s.port := rfl

theorem memRead_withMsr (a : Word) (w : Width) :
    (s.withMsr m).memRead a w = ((s.memRead a w).1.withMsr m, (s.memRead a w).2) := by
  unfold State.memRead
  rw [atCall_withMsr, withMsr_port]
  cases aligned a w
  · rfl
  · cases s.atCall.port.answers .read a.toNat w.bytes <;> rfl

theorem memWrite_withMsr (a : Word) (w : Width) (v : DWord) :
    (s.withMsr m).memWrite a w v = ((s.memWrite a w v).1.withMsr m, (s.memWrite a w v).2) := by
  unfold State.memWrite
  rw [atCall_withMsr, withMsr_port]
  cases aligned a w
  · rfl
  · cases s.atCall.port.answers .write a.toNat w.bytes <;> rfl

theorem readSeq_withMsr (w : Width) (as : List Word) :
    State.readSeq w as (s.withMsr m) = ((State.readSeq w as s).1.withMsr m, (State.readSeq w as s).2) := by
  induction as generalizing s with
  | nil => rfl
  | cons a as ih =>
    rw [State.readSeq, State.readSeq, memRead_withMsr]
    rcases s.memRead a w with ⟨t, o | v⟩
    · rfl
    · simp only [ih]
      rcases State.readSeq w as t with ⟨u, o | vs⟩ <;> rfl

theorem writeSeq_withMsr (w : Width) (l : List (Word × DWord)) :
    State.writeSeq w l (s.withMsr m) = ((State.writeSeq w l s).1.withMsr m, (State.writeSeq w l s).2) := by
  induction l generalizing s with
  | nil => rfl
  | cons c l ih =>
    obtain ⟨a, v⟩ := c
    rw [State.writeSeq, State.writeSeq, memWrite_withMsr]
    rcases s.memWrite a w v with ⟨t, _ | o⟩
    · exact ih t
    · rfl

/-! ### Operations of the registers -/

theorem updateBase_withMsr (base : Option GprNum) (ea : Word) :
    (s.withMsr m).updateBase base ea = (s.updateBase base ea).withMsr m := by
  cases base <;> rfl

theorem setGprsFrom_withMsr (r : GprNum) (vs : List Word) :
    (s.withMsr m).setGprsFrom r vs = (s.setGprsFrom r vs).withMsr m := by
  induction vs generalizing r s with
  | nil => rfl
  | cons v vs ih => exact ih (s.setGpr r v) (r + 1)

theorem recordCr0_withMsr (rc : Bool) (v : Word) : (s.withMsr m).recordCr0 rc v = (s.recordCr0 rc v).withMsr m := by
  cases rc <;> rfl

theorem setOvIf_withMsr (oe ov : Bool) : (s.withMsr m).setOvIf oe ov = (s.setOvIf oe ov).withMsr m := by
  cases oe <;> rfl

theorem recordFp_withMsr (rc : Bool) : (s.withMsr m).recordFp rc = (s.recordFp rc).withMsr m := by
  cases rc <;> rfl

theorem link_withMsr (lk : Bool) : (s.withMsr m).link lk = (s.link lk).withMsr m := by
  cases lk <;> rfl

theorem writeSpr_withMsr (n : SprNum) (v : Word) :
    (s.withMsr m).writeSpr n v = (s.writeSpr n v).map (State.withMsr m) := by
  unfold State.writeSpr
  cases sprClass n <;> rfl

/-! ### Endings -/

theorem complete_withMsr : complete (s.withMsr m) = nextWithMsr m (complete s) := rfl

theorem finishResult_withMsr (r : GprNum) (v : Word) (rc : Bool) :
    finishResult r v rc (s.withMsr m) = nextWithMsr m (finishResult r v rc s) :=
  congrArg complete (recordCr0_withMsr m (s.setGpr r v) rc v)

theorem finishCarry_withMsr (r : GprNum) (v : Word) (ca rc : Bool) :
    finishCarry r v ca rc (s.withMsr m) = nextWithMsr m (finishCarry r v ca rc s) :=
  congrArg complete (recordCr0_withMsr m ((s.setGpr r v).setCa ca) rc v)

theorem finishOverflow_withMsr (r : GprNum) (v : Word) (ov oe rc : Bool) :
    finishOverflow r v ov oe rc (s.withMsr m) = nextWithMsr m (finishOverflow r v ov oe rc s) := by
  have hov := setOvIf_withMsr m (s.setGpr r v) oe ov
  exact congrArg complete ((congrArg (State.recordCr0 · rc v) hov).trans (recordCr0_withMsr ..))

theorem addCarrying_withMsr (r : GprNum) (x y : Word) (cin oe rc : Bool) :
    addCarrying r x y cin oe rc (s.withMsr m) = nextWithMsr m (addCarrying r x y cin oe rc s) := by
  have hov := setOvIf_withMsr m ((s.setGpr r (carrySum x y cin)).setCa (carryOut x y cin)) oe
    (overflows (x.toInt + y.toInt + bitInt cin))
  exact congrArg complete ((congrArg (State.recordCr0 · rc _) hov).trans (recordCr0_withMsr ..))

theorem finishFp_withMsr (frd : FprNum) (v : DWord) (fpscr : Word) (rc : Bool) :
    finishFp frd v fpscr rc (s.withMsr m) = nextWithMsr m (finishFp frd v fpscr rc s) :=
  congrArg complete (recordFp_withMsr m ((s.setFpr frd v).setFpscr fpscr) rc)

theorem finishFpMove_withMsr (frd : FprNum) (v : DWord) (rc : Bool) :
    finishFpMove frd v rc (s.withMsr m) = nextWithMsr m (finishFpMove frd v rc s) :=
  congrArg complete (recordFp_withMsr m (s.setFpr frd v) rc)

theorem finishFpscr_withMsr (fpscr : Word) (rc : Bool) :
    finishFpscr fpscr rc (s.withMsr m) = nextWithMsr m (finishFpscr fpscr rc s) :=
  congrArg complete (recordFp_withMsr m (s.setFpscr fpscr) rc)

theorem finishArith_withMsr (fmt : FpFormat) (frd : FprNum) (r : FpResult) (rc : Bool) :
    finishArith fmt frd r rc (s.withMsr m) = nextWithMsr m (finishArith fmt frd r rc s) :=
  finishFp_withMsr m s ..

theorem finishToInt_withMsr (frd : FprNum) (r : IntResult) (rc : Bool) :
    finishToInt frd r rc (s.withMsr m) = nextWithMsr m (finishToInt frd r rc s) :=
  finishFp_withMsr m s ..

theorem loadGpr_withMsr (w : Width) (conv : DWord → Word) (rd : GprNum) (ea : Word) (base : Option GprNum) :
    loadGpr w conv rd ea base (s.withMsr m) = nextWithMsr m (loadGpr w conv rd ea base s) := by
  unfold loadGpr
  rw [memRead_withMsr]
  rcases s.memRead ea w with ⟨t, o | v⟩
  · rfl
  · exact congrArg complete (updateBase_withMsr m (t.setGpr rd (conv v)) base ea)

theorem loadFpr_withMsr (w : Width) (conv : DWord → DWord) (frd : FprNum) (ea : Word) (base : Option GprNum) :
    loadFpr w conv frd ea base (s.withMsr m) = nextWithMsr m (loadFpr w conv frd ea base s) := by
  unfold loadFpr
  rw [memRead_withMsr]
  rcases s.memRead ea w with ⟨t, o | v⟩
  · rfl
  · exact congrArg complete (updateBase_withMsr m (t.setFpr frd (conv v)) base ea)

theorem storeValue_withMsr (w : Width) (v : DWord) (ea : Word) (base : Option GprNum) :
    storeValue w v ea base (s.withMsr m) = nextWithMsr m (storeValue w v ea base s) := by
  unfold storeValue
  rw [memWrite_withMsr]
  rcases s.memWrite ea w v with ⟨t, _ | o⟩
  · exact congrArg complete (updateBase_withMsr m t base ea)
  · rfl

theorem loadSeq_withMsr (w : Width) (as : List Word) (pack : List DWord → List Word) (r : GprNum) :
    loadSeq w as pack r (s.withMsr m) = nextWithMsr m (loadSeq w as pack r s) := by
  unfold loadSeq
  rw [readSeq_withMsr]
  rcases State.readSeq w as s with ⟨t, o | vs⟩
  · rfl
  · exact congrArg complete (setGprsFrom_withMsr m t r (pack vs))

theorem storeSeq_withMsr (w : Width) (l : List (Word × DWord)) :
    storeSeq w l (s.withMsr m) = nextWithMsr m (storeSeq w l s) := by
  unfold storeSeq
  rw [writeSeq_withMsr]
  rcases State.writeSeq w l s with ⟨t, _ | o⟩ <;> rfl

/-- The multiple-word instructions check the alignment of EA first (R69). -/
theorem alignedOrFail_withMsr {r' r : Result} (a : Word) (w : Width) (h : r' = nextWithMsr m r) :
    (if aligned a w then r' else fail (.alignment .data a w) (s.withMsr m)) =
      nextWithMsr m (if aligned a w then r else fail (.alignment .data a w) s) := by
  split
  · exact h
  · rfl

theorem branchConditional_withMsr (target : Word) (bo : BitVec 5) (bi : CrBit) (lk : Bool) :
    branchConditional target bo bi lk (s.withMsr m) = nextWithMsr m (branchConditional target bo bi lk s) :=
  congrArg (redirect _) (link_withMsr m { s with ctr := s.branchCtr bo } lk)

theorem execMfspr_withMsr (rd : GprNum) (n : SprNum) (z31 : BitVec 1) :
    execMfspr rd n z31 (s.withMsr m) = nextWithMsr m (execMfspr rd n z31 s) := by
  have hread : (s.withMsr m).readSpr n = s.readSpr n := rfl
  unfold execMfspr
  rw [hread]
  cases s.readSpr n <;> rfl

theorem execMtspr_withMsr (rs : GprNum) (n : SprNum) (z31 : BitVec 1) :
    execMtspr rs n z31 (s.withMsr m) = nextWithMsr m (execMtspr rs n z31 s) := by
  have hgpr : (s.withMsr m).gpr rs = s.gpr rs := rfl
  unfold execMtspr
  rw [writeSpr_withMsr, hgpr]
  cases s.writeSpr n (s.gpr rs) <;> rfl

theorem execMftb_withMsr (rd : GprNum) (n : SprNum) (z31 : BitVec 1) :
    execMftb rd n z31 (s.withMsr m) = nextWithMsr m (execMftb rd n z31 s) := by
  unfold execMftb
  cases sprClass n <;> rfl

end Operations

/-! ### Every instruction -/

/-- With another MSR an instruction makes the same next state but for MSR, which is the other one, or what `mtmsr` writes. -/
theorem exec_withMsr {i : Instr} (s : State) (m : Word) (hsc : ∀ z, i ≠ .sc z)
    (hrfi : ∀ z6 z11 z16 z31, i ≠ .rfi z6 z11 z16 z31) (hmfmsr : ∀ rd z11 z16 z31, i ≠ .mfmsr rd z11 z16 z31) :
    ∃ m', exec i (s.withMsr m) = nextWithMsr m' (exec i s) := by
  cases i with
  | sc => exact (hsc _ rfl).elim
  | rfi => exact (hrfi _ _ _ _ rfl).elim
  | mfmsr => exact (hmfmsr _ _ _ _ rfl).elim
  | mtmsr rs => exact ⟨s.gpr rs, rfl⟩
  | addi | addis | mulli | mulhw | mulhwu | andiDot | andisDot | ori | oris | xori | xoris | and | or | xor | nand | nor
  | andc | orc | eqv | extsb | extsh | cntlzw | rlwinm | rlwimi | rlwnm | slw | srw => exact ⟨m, finishResult_withMsr m s ..⟩
  | addic | addicDot | subfic | sraw | srawi => exact ⟨m, finishCarry_withMsr m s ..⟩
  | add | subf | neg | mullw | divw | divwu => exact ⟨m, finishOverflow_withMsr m s ..⟩
  | addc | adde | addme | addze | subfc | subfe | subfme | subfze => exact ⟨m, addCarrying_withMsr m s ..⟩
  | cmpi | cmp | cmpli | cmpl | crand | cror | crxor | crnand | crnor | creqv | crandc | crorc | mcrf | mfcr | mtcrf | mcrxr
  | mcrfs | fcmpu | fcmpo | sync | isync | eieio | dcbt | dcbtst | dcbst | dcbf | dcbi | icbi => exact ⟨m, rfl⟩
  | lbz | lbzu | lbzx | lbzux | lhz | lhzu | lhzx | lhzux | lha | lhau | lhax | lhaux | lwz | lwzu | lwzx | lwzux | lhbrx
  | lwbrx => exact ⟨m, loadGpr_withMsr m s ..⟩
  | lfs | lfsu | lfsx | lfsux | lfd | lfdu | lfdx | lfdux => exact ⟨m, loadFpr_withMsr m s ..⟩
  | stb | stbu | stbx | stbux | sth | sthu | sthx | sthux | stw | stwu | stwx | stwux | sthbrx | stwbrx | stfs | stfsu | stfsx
  | stfsux | stfd | stfdu | stfdx | stfdux | stfiwx => exact ⟨m, storeValue_withMsr m s ..⟩
  | lmw => exact ⟨m, alignedOrFail_withMsr m s _ .word (loadSeq_withMsr m s ..)⟩
  | lswi | lswx => exact ⟨m, loadSeq_withMsr m s ..⟩
  | stmw => exact ⟨m, alignedOrFail_withMsr m s _ .word (storeSeq_withMsr m s ..)⟩
  | stswi | stswx | dcbz => exact ⟨m, storeSeq_withMsr m s ..⟩
  | b _ _ lk => exact ⟨m, congrArg (redirect _) (link_withMsr m s lk)⟩
  | bc | bclr | bcctr => exact ⟨m, branchConditional_withMsr m s ..⟩
  | mfspr => exact ⟨m, execMfspr_withMsr m s ..⟩
  | mtspr => exact ⟨m, execMtspr_withMsr m s ..⟩
  | mftb => exact ⟨m, execMftb_withMsr m s ..⟩
  | twi | tw | lwarx | stwcxDot | mfsr | mfsrin | mtsr | mtsrin | tlbie | tlbsync => exact ⟨m, rfl⟩
  | fadd | fadds | fsub | fsubs | fmul | fmuls | fdiv | fdivs | fmadd | fmadds | fmsub | fmsubs | fnmadd | fnmadds | fnmsub
  | fnmsubs | fres | frsqrte | frsp => exact ⟨m, finishArith_withMsr m s ..⟩
  | fctiw | fctiwz => exact ⟨m, finishToInt_withMsr m s ..⟩
  | fmr | fneg | fabs | fnabs | mffs => exact ⟨m, finishFpMove_withMsr m s ..⟩
  | mtfsb0 | mtfsb1 | mtfsfi | mtfsf => exact ⟨m, finishFpscr_withMsr m s ..⟩

end Sys2Proof.Machine

namespace Sys2Proof

section

open Machine

/-! ## O15: what MSR steers -/

/-- Settles O15: the second run ends in the first one's next state with an MSR of its own. -/
theorem msrHasNoEffect : Obligations.MsrHasNoEffect := by
  intro i s t m hsc hrfi hmfmsr ht
  obtain ⟨m', hm'⟩ := exec_withMsr s m hsc hrfi hmfmsr
  rw [ht] at hm'
  exact ⟨_, hm', rfl⟩

/-! ## O44, O45: the system call and the return -/

/-- Settles O44: the two words of MSR that it makes, bit by bit. -/
theorem systemCall : Obligations.SystemCall := by
  intro z s
  refine ⟨_, rfl, rfl, fun k hk => ?_, fun k hk => getMsbD_systemCallMsr s.msr hk⟩
  exact BitVec.getMsbD_and.trans (getMsbD_savedMask hk ▸ Bool.and_comm ..)

/-- What the return makes of MSR and PC (R492). -/
theorem rfi_ends (z6 z11 z16 : BitVec 5) (z31 : BitVec 1) (s : State) :
    Ends (.rfi z6 z11 z16 z31) s fun t =>
      t = { s with msr := t.msr, pc := BitVec.ofNat 32 (s.srr0.toNat / 4 * 4), outcome := some .ok } ∧
      ∀ k, k < 32 → t.msr.getMsbD k =
        if k ∈ savedBits then s.srr1.getMsbD k else s.msr.getMsbD k := by
  rw [← registerTarget_eq_ofNat]
  exact ⟨_, rfl, rfl, fun k hk => getMsbD_restoredMsr s.msr s.srr1 hk⟩

/-- Settles O45: the second half puts together what `sc` saves and what `rfi` restores. -/
theorem returnFromInterrupt : Obligations.ReturnFromInterrupt := by
  refine ⟨rfi_ends, fun z z6 z11 z16 z31 s hpc => ?_⟩
  obtain ⟨t, ht, hcall, hsaved, -⟩ := systemCall z s
  obtain ⟨u, hu, hreturn, hrestored⟩ := rfi_ends z6 z11 z16 z31 t
  refine ⟨t, ht, u, hu, ?_, fun k hk => ?_⟩
  · have hnext : t.srr0 = s.pc + 4 := by rw [hcall]
    have haligned : (s.pc + 4).toNat % 4 = 0 := (aligned_word_iff _).mp (aligned_add_four ((aligned_word_iff _).mpr hpc))
    rw [hreturn, hnext, Nat.div_mul_cancel (Nat.dvd_of_mod_eq_zero haligned), BitVec.ofNat_toNat, BitVec.setWidth_eq]
  · have hlt : k < 32 := by
      revert k
      decide
    rw [hrestored k hlt, if_pos hk, hsaved k hlt, decide_eq_true hk, Bool.true_and]

/-! ## O46, O47: the instructions that do nothing, and the unimplemented ones -/

/-- Settles O46: the nine have one meaning, to complete. -/
theorem noOps : Obligations.NoOps := by
  intro z6 z11 z16 z31 ra rb s done
  have h : complete s = done := complete_eq s
  exact ⟨h, h, h, h, h, h, h, h, h⟩

/-- Settles O47: the ten, each with its own tag; the others have none. -/
theorem unimplemented : Obligations.Unimplemented := by
  intro i tag s h
  cases i with
  | lwarx | stwcxDot | mfsr | mfsrin | mtsr | mtsrin | tlbie | tlbsync | tw | twi =>
    cases h
    exact reportInvalid_eq ..
  | _ => cases h

end

end Sys2Proof
